-- ==== Sys2Proof/Word.lean ====
section
/-! DEFINITION. The value types of the framer (rules R6, R7): a byte, the 9-bit length, the 16-bit
CRC, and the timing offset in its two widths. -/

namespace Sys2Proof

/-- A byte value, `VALUE_W` = 8 bits (R6, R99: a value outside 0 to 255 cannot be written). -/
abbrev Byte := BitVec 8

/-- The width of `expected_length`, `LEN_W` = 9 bits (R6, R11). -/
abbrev Len := BitVec 9

/-- A 16-bit CRC (R92). -/
abbrev Crc := BitVec 16

/-- A timing offset at the transaction level: a natural number with no bound (R6, R46). -/
abbrev Offset := Nat

/-- A timing offset on the ports, `OFFSET_W` = 64 bits (R6, R23, R24). -/
abbrev PortOffset := BitVec 64

end Sys2Proof
end

