-- ==== Sys2Proof/Config.lean ====
section
/-! DEFINITION. The implementation parameters of rule R6 that are not widths of types, and the free
values of the output pins (R27, U12). `CSUM_MODE` and `CMD_TABLE` are arguments of the model and stand
in `State` (log entries 9 and 10). -/

namespace Sys2Proof.Config

/-- `HDR_LEN`: destination, length, source, command (R6). -/
def hdrLen : Nat := 4

/-- `OVERHEAD`: the bytes of a packet that are not payload (R6). -/
def overhead : Nat := 5

/-- `MIN_PKT` (R6). -/
def minPkt : Nat := 5

/-- `MAX_PKT` (R6). -/
def maxPkt : Nat := 260

/-- `BUF_DEPTH`: the cells of the packet buffer (R6, R28). -/
def bufDepth : Nat := 260

/-- `OFFSET_W`: the width of an offset on the ports (R6). -/
def offsetW : Nat := 64

/-- `N_CLASSES`: annotation classes, indexes 0 to 6 (R6, R52). -/
def nClasses : Nat := 7

/-- `CRC_POLY` (R6, R92). -/
def crcPoly : Crc := 0x1021#16

/-- `CRC_INIT` (R6, R92). -/
def crcInit : Crc := 0x0000#16

/-- `FALLBACK_DESC` (R6, R61). -/
def fallbackDesc : String := "Unhandled"

/-- `an_ss` while `an_valid` is 0: free, one value for each clock edge (R27, U12; log entry 13). -/
opaque undrivenSs : Nat → PortOffset

/-- `an_es` while `an_valid` is 0: free (R27, U12; log entry 13). -/
opaque undrivenEs : Nat → PortOffset

/-- `an_cls` while `an_valid` is 0: free (R27, U12; log entry 13). -/
opaque undrivenCls : Nat → BitVec 3

/-- `an_value` while `an_valid` is 0: free (R27, U12; log entry 13). -/
opaque undrivenValue : Nat → Byte

/-- `an_known` while `an_valid` is 0: free (R27, U12; log entry 13). -/
opaque undrivenKnown : Nat → Bool

/-- `pk_csum` while `pk_valid` is 0: free (R27, U12; log entry 13). -/
opaque undrivenCsum : Nat → Byte

/-- `pk_ok` while `pk_valid` is 0: free (R27, U12; log entry 13). -/
opaque undrivenOk : Nat → Bool

end Sys2Proof.Config
end

