-- ==== Sys2Proof/Syntax.lean ====
section
/-! DEFINITION. The operations of `spec/opcode_table.json`, one constructor a row. An operand of an
operation that an input selects is the event that is delivered (R44); an operand of a function row is
the function's argument. -/

namespace Sys2Proof

/-- What an event carries beside its kind (R44): the ignored secondary field, the byte value and the
two offsets. -/
structure Event where
  /-- The secondary field, `AUX_W` = 1 bit, read by no rule (R45, R76). -/
  aux : BitVec 1
  value : Byte
  ss : Offset
  es : Offset
deriving DecidableEq, Repr

/-- The operations. -/
inductive Instr where
  /-- `RESET` (R71): operands none. -/
  | reset
  /-- `IGNORE` (R70): a non-data event. -/
  | ignore (ev : Event)
  /-- `ACCEPT.DST` (R67): the first byte of a packet. -/
  | acceptDst (ev : Event)
  /-- `ACCEPT.LEN` (R66): the second byte of a packet. -/
  | acceptLen (ev : Event)
  /-- `ACCEPT.BODY` (R68): a byte after the second that does not complete the packet. -/
  | acceptBody (ev : Event)
  /-- `ACCEPT.LAST` (R69): the byte that completes the packet. -/
  | acceptLast (ev : Event)
  /-- `INTERPRET` (R77): a function row, invoked by `ACCEPT.LAST`. -/
  | interpret
  /-- `LOOKUP` (R61): a function row, invoked by `INTERPRET`. -/
  | lookup (code : Byte)
  /-- `CSUM8` (R88): a function row, invoked by `INTERPRET`. -/
  | csum8 (bs : List Byte)
  /-- `CRC16` (R92): a function row, invoked by no rule of this hardware. -/
  | crc16 (bs : List Byte)
deriving DecidableEq, Repr

end Sys2Proof
end

