-- ==== Sys2Proof/WellFormed.lean ====
section
/-! DEFINITION. Which operations the ports can carry. A byte is 8 bits by its type (R99); the one check
left is that an event's offsets fit the `OFFSET_W` wires of `ev_ss` and `ev_es` (R23, R46). -/

namespace Sys2Proof

/-- The event's offsets fit the ports (R46). -/
def Event.wellFormed (ev : Event) : Bool :=
  decide (ev.ss < 2 ^ Config.offsetW) && decide (ev.es < 2 ^ Config.offsetW)

/-- The operation is well formed: the event it carries, if any, fits the ports. -/
def Instr.wellFormed (i : Instr) : Bool :=
  match i with
  | .reset => true
  | .ignore ev => ev.wellFormed
  | .acceptDst ev => ev.wellFormed
  | .acceptLen ev => ev.wellFormed
  | .acceptBody ev => ev.wellFormed
  | .acceptLast ev => ev.wellFormed
  | .interpret => true
  | .lookup _ => true
  | .csum8 _ => true
  | .crc16 _ => true

end Sys2Proof
end

