-- ==== Sys2Proof/Decode.lean ====
section
/-! DEFINITION. From the wires of the event port to an operation and back (R44, R45, R47, R57). -/

namespace Sys2Proof

/-- The kind of an event (R44): the host's type tag reduced to the two cases the framer tells apart. -/
inductive EventKind where
  | data
  | other
deriving DecidableEq, Repr

/-- An input event in its abstract format `(kind, aux, value, ss, es)` (R44). -/
structure InEvent where
  kind : EventKind
  ev : Event
deriving DecidableEq, Repr

/-- The four sub-cases of `ACCEPT` (R47), chosen by the state and not by the word. -/
inductive Subcase where
  | dst
  | len
  | body
  | last
deriving DecidableEq, Repr

/-- Why a word selects no operation. -/
inductive DecodeRefusal where
  /-- A data event in a state to which R47 gives no sub-case (only in states that break R14). -/
  | noSubcase
deriving DecidableEq, Repr

/-- The wires that select and accompany a step (R47, R57): `SEL`, `ev_ss`, `ev_es`. -/
structure EventWord where
  sel : BitVec 11
  ss : PortOffset
  es : PortOffset
deriving DecidableEq, Repr

/-- `SEL[10]` (R57). -/
def EventWord.rst (w : EventWord) : Bool := w.sel[10]

/-- `SEL[9]`: 1 = DATA, 0 = OTHER (R45). -/
def EventWord.kind (w : EventWord) : EventKind := if w.sel[9] then .data else .other

/-- `SEL[8]` (R57). -/
def EventWord.aux (w : EventWord) : BitVec 1 := w.sel.extractLsb' 8 1

/-- `SEL[7:0]` (R57). -/
def EventWord.value (w : EventWord) : Byte := w.sel.extractLsb' 0 8

/-- The event the wires carry, its offsets as natural numbers (R46). -/
def EventWord.event (w : EventWord) : Event :=
  { aux := w.aux, value := w.value, ss := w.ss.toNat, es := w.es.toNat }

/-- The abstract event the wires carry (R44). -/
def EventWord.inEvent (w : EventWord) : InEvent := { kind := w.kind, ev := w.event }

/-- The operation a sub-case names (R47). -/
def acceptInstr (p : Subcase) (ev : Event) : Instr :=
  match p with
  | .dst => .acceptDst ev
  | .len => .acceptLen ev
  | .body => .acceptBody ev
  | .last => .acceptLast ev

/-- The operation of a step (R47, R65, order of tests R106): reset first, then the kind, then the
sub-case the state gives. -/
def select (p : Option Subcase) (rst : Bool) (e : InEvent) : Except DecodeRefusal Instr :=
  if rst then .ok .reset
  else
    match e.kind with
    | .other => .ok (.ignore e.ev)
    | .data =>
      match p with
      | some q => .ok (acceptInstr q e.ev)
      | none => .error .noSubcase

/-- The operation the wires select when the state gives sub-case `p` (R47). Total on every word. -/
def decode (p : Option Subcase) (w : EventWord) : Except DecodeRefusal Instr :=
  select p w.rst w.inEvent

/-- `ECW` (R45): kind in bit 9, aux in bit 8, value in bits 7:0. -/
def ecw (k : EventKind) (ev : Event) : BitVec 10 :=
  (match k with
    | .data => 1#1
    | .other => 0#1) ++ ev.aux ++ ev.value

/-- `SEL = (rst, ECW)` (R47). -/
def selector (rst : Bool) (c : BitVec 10) : BitVec 11 := BitVec.ofBool rst ++ c

/-- The wires of a delivered event (R23, R45); `rst` is 0. -/
def eventWord (k : EventKind) (ev : Event) : EventWord :=
  { sel := selector false (ecw k ev), ss := BitVec.ofNat 64 ev.ss, es := BitVec.ofNat 64 ev.es }

/-- The wires that select an operation; a function row has none (R47: "not selected by any input
encoding"). `RESET` leaves the other bits 0 (R58). -/
def encode (i : Instr) : Option EventWord :=
  match i with
  | .reset => some { sel := 0x400#11, ss := 0, es := 0 }
  | .ignore ev => some (eventWord .other ev)
  | .acceptDst ev => some (eventWord .data ev)
  | .acceptLen ev => some (eventWord .data ev)
  | .acceptBody ev => some (eventWord .data ev)
  | .acceptLast ev => some (eventWord .data ev)
  | .interpret => none
  | .lookup _ => none
  | .csum8 _ => none
  | .crc16 _ => none

/-- The sub-case an operation needs the state to give (R47); none where any state will do. -/
def subcaseOf (i : Instr) : Option Subcase :=
  match i with
  | .acceptDst _ => some .dst
  | .acceptLen _ => some .len
  | .acceptBody _ => some .body
  | .acceptLast _ => some .last
  | .reset => none
  | .ignore _ => none
  | .interpret => none
  | .lookup _ => none
  | .csum8 _ => none
  | .crc16 _ => none

/-- The event an operation carries. -/
def eventOf (i : Instr) : Option Event :=
  match i with
  | .ignore ev => some ev
  | .acceptDst ev => some ev
  | .acceptLen ev => some ev
  | .acceptBody ev => some ev
  | .acceptLast ev => some ev
  | .reset => none
  | .interpret => none
  | .lookup _ => none
  | .csum8 _ => none
  | .crc16 _ => none

/-- Match and mask of the row in the selection table of R47; none for a function row. -/
def selMatchMask (i : Instr) : Option (BitVec 11 × BitVec 11) :=
  match i with
  | .reset => some (0x400#11, 0x400#11)
  | .ignore _ => some (0x000#11, 0x600#11)
  | .acceptDst _ => some (0x200#11, 0x600#11)
  | .acceptLen _ => some (0x200#11, 0x600#11)
  | .acceptBody _ => some (0x200#11, 0x600#11)
  | .acceptLast _ => some (0x200#11, 0x600#11)
  | .interpret => none
  | .lookup _ => none
  | .csum8 _ => none
  | .crc16 _ => none

/-- The selector in a table word: `SEL` is bits 10 to 0 of the word, and a word with a higher bit set
is no selector (log entry 17). -/
def tableSelector (nbits w : Nat) : Option (BitVec 11) :=
  if w < 2 ^ nbits then if w < 2 ^ 11 then some (BitVec.ofNat 11 w) else none else none

/-- The operation the decoder reads from a table word with both offsets 0, in the state after reset,
where the sub-case is `ACCEPT.DST` (log entry 17). -/
def decodeTableWord (nbits w : Nat) : Option Instr :=
  match tableSelector nbits w with
  | none => none
  | some sel =>
    match decode (some .dst) { sel := sel, ss := 0, es := 0 } with
    | .ok i => some i
    | .error _ => none

end Sys2Proof
end

