-- ==== Sys2Proof/Machine/State.lean ====
section
/-! DEFINITION. The framer's state as plain data (R10 to R27, R125), the reasons a step can stop, and the
state after reset (R27). -/

namespace Sys2Proof.Machine

/-- The faults. The hardware raises nothing (R103); this one marks an access the spec says has no cell. -/
inductive Fault where
  /-- Raised by an append at an index outside 0 to 259, where the buffer has no cell (R28, R32). Only states that
  break R14 reach it. Safe: the model stops where R32 says the hardware never is (log entry 12). -/
  | bufferIndex (index : Nat)
deriving DecidableEq, Repr

/-- The refusals. -/
inductive Refusal where
  /-- Raised by an arm of `exec` whose operation has no meaning yet. Safe. No arm raises it. -/
  | notModelled (mnemonic : String)
  /-- Raised by every step, by the ACCEPT operations and by INTERPRET when `CSUM_MODE` is CRC16, a configuration
  the spec gives no meaning (R87, U6). Safe (log entry 9). -/
  | csumModeCrc16
  /-- Raised by an ACCEPT operation executed in a state that R47 does not give to it. A step never does that.
  Safe (log entry 8). -/
  | subcaseNotSelected
  /-- Raised by INTERPRET when the buffer does not hold a whole packet, where its reads are not defined (R8, R77).
  A step never does that in a state that meets R14. Safe (log entry 6). -/
  | packetIncomplete
  /-- Raised by a step whose word selects no operation: a data event in a state that breaks R14 (log entry 7). Safe. -/
  | undecodable (reason : DecodeRefusal)
deriving DecidableEq, Repr

/-- A cell of the packet buffer (R10, R28): the byte and its two offsets. -/
structure Entry where
  value : Byte
  ss : Offset
  es : Offset
deriving DecidableEq, Repr

/-- `CSUM_MODE` (R17). -/
inductive CsumMode where
  | csum8
  | crc16
deriving DecidableEq, Repr

/-- The seven declared annotation classes (R52). Classes 4 and 5 are never emitted (R60). -/
inductive AnnotationClass where
  | destination
  | length
  | source
  | commandHeader
  | commandData
  | checksum
  | packetSummary
deriving DecidableEq, Repr

/-- The label of an annotation record before it is rendered as text (R53, R54). -/
inductive Label where
  /-- A header field's value; the field name is that of the record's class (R53). -/
  | field (value : Byte)
  /-- The pair `(c, LOOKUP(c))` (R54). -/
  | summary (code : Byte) (description : String)
deriving DecidableEq, Repr

/-- An annotation record `A(ss, es, cls, label)` (R51). -/
structure Annotation where
  ss : Offset
  es : Offset
  cls : AnnotationClass
  label : Label
deriving DecidableEq, Repr

/-- A packet status record `S(csum, ok)` (R56). -/
structure Status where
  csum : Byte
  ok : Bool
deriving DecidableEq, Repr

/-- An annotation record as the annotation port carries it (R24, R55). -/
structure AnnPort where
  ss : PortOffset
  es : PortOffset
  cls : BitVec 3
  value : Byte
  known : Bool
deriving DecidableEq, Repr

/-- What the output ports present in one transfer: an annotation record and, beside the class 6 record, the
status record (R25, R125). -/
structure PortRecord where
  ann : AnnPort
  status : Option Status
deriving DecidableEq, Repr

/-- The pins the host drives, as one rising edge of `clk` samples them (R22 to R24). -/
structure Edge where
  rst : Bool
  evValid : Bool
  ecw : BitVec 10
  evSs : PortOffset
  evEs : PortOffset
  anReady : Bool
deriving DecidableEq, Repr

/-- What a function row gives back (R61, R88, R92; log entry 5). -/
inductive FnResult where
  /-- `LOOKUP(code)` and `KNOWN(code)` (R61). -/
  | text (description : String) (known : Bool)
  /-- `CSUM8(bs)` (R88). -/
  | byte (value : Byte)
  /-- `CRC16(bs)` (R92). -/
  | word (value : Crc)
deriving DecidableEq, Repr

/-- The Command Table: its locations that hold a text, by code (R18, R33; log entry 10). -/
abbrev CmdTable := List (Byte × String)

/-- The state of one framer and of its interfaces. -/
structure State where
  /-- The packet buffer (R10). -/
  buf : List Entry
  /-- `expected_length` (R11). -/
  expectedLength : Len
  /-- `CSUM_MODE`, static (R17). -/
  csumMode : CsumMode
  /-- `CMD_TABLE`, static (R18, R63). -/
  cmdTable : CmdTable
  /-- The records of a completed packet that the receiver has not taken (R125). -/
  pending : List PortRecord
  /-- The model's own: the annotation records emitted so far, oldest first (R5; log entry 4). -/
  annotations : List Annotation
  /-- The model's own: the status records produced so far, oldest first (R5; log entry 4). -/
  statuses : List Status
  /-- The model's own: the records taken at the annotation port so far, oldest first (R24; log entry 4). -/
  transferred : List PortRecord
  /-- The model's own: what the last executed function row gave back (log entry 5). -/
  fnResult : Option FnResult
  /-- The model's own: the host's pins at the coming clock edges (log entry 1). -/
  edges : List Edge
  /-- The model's own: a plain counter that indexes the free values of undriven pins (log entry 13). -/
  edgeCount : Nat
deriving DecidableEq, Repr

/-- The state after reset with the static Command Table `table` (R27, R17). -/
def State.resetWith (table : CmdTable) : State :=
  { buf := [], expectedLength := 0, csumMode := .csum8, cmdTable := table, pending := [], annotations := [],
    statuses := [], transferred := [], fnResult := none, edges := [], edgeCount := 0 }

/-- The state after reset (R27). The table is empty (log entry 10, DESIGN CHOICE): its contents are not in the
spec (R63). -/
def State.reset : State := State.resetWith []

end Sys2Proof.Machine
end

