-- ==== Sys2Proof/Machine/Operands.lean ====
section
/-! DEFINITION. How operands are assembled and records encoded: the packet length (R48), the buffer entry of an
event (R29), the labels (R53, R54) and the port encoding (R55). -/

namespace Sys2Proof.Machine

/-- `zext_9` (R7). -/
def zext9 (v : Byte) : Len := v.setWidth 9

/-- `L = zext_9(value) + 5` (R48, R66). -/
def totalLength (v : Byte) : Len := zext9 v + BitVec.ofNat 9 Config.overhead

/-- The buffer entry of a data event: value and offsets copied unchanged (R29, R48). -/
def entryOf (ev : Event) : Entry := { value := ev.value, ss := ev.ss, es := ev.es }

/-- The byte values of a sequence of entries, timing discarded (R78). -/
def values (es : List Entry) : List Byte := es.map (fun e => e.value)

/-- The class index (R52). -/
def classIndex (c : AnnotationClass) : BitVec 3 :=
  match c with
  | .destination => 0
  | .length => 1
  | .source => 2
  | .commandHeader => 3
  | .commandData => 4
  | .checksum => 5
  | .packetSummary => 6

/-- The bit of `CSUM_MODE` (R17): 0 = CSUM8, 1 = CRC16. -/
def csumModeBit (m : CsumMode) : BitVec 1 :=
  match m with
  | .csum8 => 0
  | .crc16 => 1

/-- The display row of a class (R52): false is the byte-field row, true the packet-summary row. -/
def inSummaryRow (c : AnnotationClass) : Bool :=
  match c with
  | .packetSummary => true
  | _ => false

/-- `dec(v)` (R7): the decimal numeral, no sign, no leading zero, no padding. -/
def dec (v : Byte) : String := Nat.repr v.toNat

/-- The field name of a class in a label (R53); the spec gives names for classes 0 to 3 only, and no record of the
other classes carries a field label. -/
def fieldName (c : AnnotationClass) : String :=
  match c with
  | .destination => "dst"
  | .length => "len"
  | .source => "src"
  | .commandHeader => "cmd"
  | .commandData => ""
  | .checksum => ""
  | .packetSummary => ""

/-- The default of the parameter `SUMMARY_FMT` (R54). -/
def summaryFmt (code : Byte) (description : String) : String := dec code ++ ": " ++ description

/-- The text of a record's label (R53, R54), with `SUMMARY_FMT` as an argument (U8). -/
def labelText (fmt : Byte → String → String) (a : Annotation) : String :=
  match a.label with
  | .field v => fieldName a.cls ++ ": " ++ dec v
  | .summary c d => fmt c d

/-- The output tuple of a record, its label list holding exactly one text (R51). -/
def annotationTuple (fmt : Byte → String → String) (a : Annotation) : Offset × Offset × Nat × List String :=
  (a.ss, a.es, (classIndex a.cls).toNat, [labelText fmt a])

/-- `an_value` of a label (R55). -/
def labelValue (l : Label) : Byte :=
  match l with
  | .field v => v
  | .summary c _ => c

/-- `LOOKUP(code)` where the table has an entry (R61): the first pair with that code (log entry 10). -/
def tableEntry (table : CmdTable) (code : Byte) : Option String :=
  match table with
  | [] => none
  | (c, text) :: rest => if c = code then some text else tableEntry rest code

/-- `LOOKUP(code)` (R61). -/
def lookupText (table : CmdTable) (code : Byte) : String :=
  match tableEntry table code with
  | some text => text
  | none => Config.fallbackDesc

/-- `KNOWN(code)` (R61). -/
def lookupKnown (table : CmdTable) (code : Byte) : Bool := (tableEntry table code).isSome

/-- The port encoding of an annotation record (R55): `an_known` is 0 for a header field, and KNOWN of the code for
the summary. Offsets are carried in 64 bits (log entry 15). -/
def annPort (table : CmdTable) (a : Annotation) : AnnPort :=
  { ss := BitVec.ofNat 64 a.ss
    es := BitVec.ofNat 64 a.es
    cls := classIndex a.cls
    value := labelValue a.label
    known :=
      match a.label with
      | .field _ => false
      | .summary c _ => lookupKnown table c }

/-- What the output ports present for a record: the status rides with the summary record (R25, R125). -/
def portRecord (table : CmdTable) (st : Status) (a : Annotation) : PortRecord :=
  { ann := annPort table a
    status :=
      match a.cls with
      | .packetSummary => some st
      | _ => none }

/-- The label text recovered off-chip from `(an_cls, an_value, an_known, CMD_TABLE)` (R55); the unused class codes
give nothing (R52, R60). -/
def recoverText (fmt : Byte → String → String) (table : CmdTable) (p : AnnPort) : Option String :=
  match p.cls.toNat with
  | 0 => some ("dst: " ++ dec p.value)
  | 1 => some ("len: " ++ dec p.value)
  | 2 => some ("src: " ++ dec p.value)
  | 3 => some ("cmd: " ++ dec p.value)
  | 6 => some (fmt p.value (if p.known then lookupText table p.value else Config.fallbackDesc))
  | _ => none

end Sys2Proof.Machine
end

