-- ==== Sys2Proof/Machine/Flags.lean ====
section
/-! DEFINITION. The checksum functions (R88, R92) and the one condition the hardware computes, the verdict `ok`
(R16, R79, R89). No flag is stored. -/

namespace Sys2Proof.Machine

/-- `CSUM8` (R88): the accumulator starts at 0 and every addition is modulo 256. -/
def csum8From (acc : Byte) (bs : List Byte) : Byte :=
  match bs with
  | [] => acc
  | b :: rest => csum8From (acc + b) rest

/-- `CSUM8(bs)` (R88). -/
def csum8 (bs : List Byte) : Byte := csum8From 0 bs

/-- The verdict (R79, R89): 1 when the sum of all bytes is 0. -/
def verdict (c : Byte) : Bool := decide (c = 0)

/-- The status record of a packet with these byte values (R56, R85). -/
def statusOf (vals : List Byte) : Status := { csum := csum8 vals, ok := verdict (csum8 vals) }

/-- The last byte that makes a packet valid (R91): `(256 - CSUM8(h)) mod 256`. -/
def validByte (h : List Byte) : Byte := BitVec.ofNat 8 ((256 - (csum8 h).toNat) % 256)

/-- One round of the CRC (R92): shift left, and fold the polynomial in when bit 15 was set. -/
def crcRound (acc : Crc) : Crc :=
  if acc[15] then (acc <<< 1) ^^^ Config.crcPoly else acc <<< 1

/-- `n` rounds. -/
def crcRounds (n : Nat) (acc : Crc) : Crc :=
  match n with
  | 0 => acc
  | k + 1 => crcRounds k (crcRound acc)

/-- One byte (R92): into bits 15:8, then 8 rounds. -/
def crcByte (acc : Crc) (b : Byte) : Crc := crcRounds 8 (acc ^^^ (b.setWidth 16 <<< 8))

/-- `CRC16` from an accumulator (R92). -/
def crc16From (acc : Crc) (bs : List Byte) : Crc :=
  match bs with
  | [] => acc
  | b :: rest => crc16From (crcByte acc b) rest

/-- `CRC16(bs)` (R92). -/
def crc16 (bs : List Byte) : Crc := crc16From Config.crcInit bs

/-- One round of the procedure on an unbounded accumulator (R93). -/
def crcWideRound (acc : Nat) : Nat :=
  if acc.testBit 15 then (acc <<< 1) ^^^ Config.crcPoly.toNat else acc <<< 1

/-- `n` rounds on an unbounded accumulator (R93). -/
def crcWideRounds (n : Nat) (acc : Nat) : Nat :=
  match n with
  | 0 => acc
  | k + 1 => crcWideRounds k (crcWideRound acc)

/-- The bytes on an unbounded accumulator (R93). -/
def crcWideFrom (acc : Nat) (bs : List Byte) : Nat :=
  match bs with
  | [] => acc
  | b :: rest => crcWideFrom (crcWideRounds 8 (acc ^^^ (b.toNat <<< 8))) rest

/-- The procedure with the mask applied once, at the very end (R93). -/
def crcLateMask (bs : List Byte) : Nat := crcWideFrom Config.crcInit.toNat bs % 2 ^ 16

end Sys2Proof.Machine
end

