-- ==== Sys2Proof/Machine/Ops.lean ====
section
/-! DEFINITION. The named operations over the state: the derived views (R12, R13, R83), the buffer as a memory
(R8, R28 to R32), the emission of records (R77, R84, R85, R125), the guards, and the port views (R22 to R25, R27). -/

namespace Sys2Proof.Machine

/-- The three stored states (R13). -/
inductive Stored where
  | empty
  | lenPending
  | accumulating
deriving DecidableEq, Repr

/-- The parsed view of a completed packet (R83): derived, not stored. -/
structure ParsedPacket where
  destination : Byte
  lengthField : Byte
  source : Byte
  command : Byte
  data : List Byte
  checksum : Byte
  description : String
deriving DecidableEq, Repr

/-- The output pins as they stand between two edges (R23 to R25). -/
structure OutPins where
  evReady : Bool
  anValid : Bool
  anSs : PortOffset
  anEs : PortOffset
  anCls : BitVec 3
  anValue : Byte
  anKnown : Bool
  pkValid : Bool
  pkCsum : Byte
  pkOk : Bool
deriving DecidableEq, Repr

/-- `count` (R12). -/
def State.count (s : State) : Nat := s.buf.length

/-- The stored state's name (R13); none in a state that breaks R14, and none while the records of a completed packet
are presented on the clock (R125): completion is no stored state (R13). -/
def State.stored (s : State) : Option Stored :=
  if s.count = 0 ∧ s.expectedLength = 0 then some .empty
  else if s.count = 1 ∧ s.expectedLength = 0 then some .lenPending
  else if 2 ≤ s.count ∧ s.count < s.expectedLength.toNat ∧ 5 ≤ s.expectedLength.toNat ∧ s.expectedLength.toNat ≤ 260 then
    some .accumulating
  else none

/-- The sub-case of ACCEPT that the state gives (the state conditions of R47). -/
def State.subcase (s : State) : Option Subcase :=
  if s.count = 0 then some .dst
  else if s.count = 1 then some .len
  else if s.count + 1 < s.expectedLength.toNat then some .body
  else if s.count + 1 = s.expectedLength.toNat then some .last
  else none

/-- `MemRead(i, n)` (R8): defined only when `i + n <= count`. -/
def memRead (i n : Nat) (s : State) : Option (List Byte) :=
  if i + n ≤ s.count then some (values ((s.buf.drop i).take n)) else none

/-- The buffer fits its cells (R28, R32). A cell's address is its position, so the listed addresses rise strictly by
construction, and no cell at or above `count` is listed (log entry 11). -/
def Memory.wf (m : List Entry) : Bool := decide (m.length ≤ Config.bufDepth)

/-- `MemWrite(count, 1, e)` and `count <- count + 1` (R29). -/
def appendEntry (e : Entry) (s : State) : State := { s with buf := s.buf ++ [e] }

/-- The append, then what follows it. Outside cells 0 to 259 there is nothing to write (R28; log entry 12). -/
def appendThen (e : Entry) (s : State) (k : State → Host.Outcome State Fault Refusal) :
    Host.Outcome State Fault Refusal :=
  if s.count < Config.bufDepth then k (appendEntry e s) else .fault (.bufferIndex s.count)

/-- `expected_length <- zext_9(value) + 5` (R66). -/
def setLength (v : Byte) (s : State) : State := { s with expectedLength := totalLength v }

/-- Drain (R31, R86). -/
def drain (s : State) : State := { s with buf := [], expectedLength := 0 }

/-- The five annotation records of a packet (R80, R81, R84), none when the buffer is shorter than the shortest packet. -/
def packetAnnotations (table : CmdTable) (buf : List Entry) : Option (List Annotation) :=
  match buf with
  | e0 :: e1 :: e2 :: e3 :: e4 :: rest =>
    some
      [ { ss := e0.ss, es := e0.es, cls := .destination, label := .field e0.value },
        { ss := e1.ss, es := e1.es, cls := .length, label := .field e1.value },
        { ss := e2.ss, es := e2.es, cls := .source, label := .field e2.value },
        { ss := e3.ss, es := e3.es, cls := .commandHeader, label := .field e3.value },
        { ss := e0.ss, es := (rest.getLastD e4).es, cls := .packetSummary,
          label := .summary e3.value (lookupText table e3.value) } ]
  | _ => none

/-- The parsed view of a completed packet (R83): data is `buf[4 .. L-1)` (C2). -/
def parsePacket (table : CmdTable) (buf : List Entry) : Option ParsedPacket :=
  match buf with
  | e0 :: e1 :: e2 :: e3 :: e4 :: rest =>
    some
      { destination := e0.value, lengthField := e1.value, source := e2.value, command := e3.value,
        data := values ((e4 :: rest).dropLast), checksum := (rest.getLastD e4).value,
        description := lookupText table e3.value }
  | _ => none

/-- Emit a packet's records (R77): the annotation records in order, one status record, and all of them queued at
the output ports (R125). -/
def emit (anns : List Annotation) (st : Status) (s : State) : State :=
  { s with
    annotations := s.annotations ++ anns
    statuses := s.statuses ++ [st]
    pending := s.pending ++ anns.map (portRecord s.cmdTable st) }

/-- `INTERPRET()` (R77): its entry condition is `count = expected_length = L`. -/
def interpretBuffer (s : State) : Host.Outcome State Fault Refusal :=
  if s.count = s.expectedLength.toNat then
    match packetAnnotations s.cmdTable s.buf with
    | some anns => .next (emit anns (statusOf (values s.buf)) s)
    | none => .refused .packetIncomplete
  else .refused .packetIncomplete

/-- Change the next state of an outcome; a fault or a refusal stays what it is. -/
def mapNext (f : State → State) (o : Host.Outcome State Fault Refusal) : Host.Outcome State Fault Refusal :=
  match o with
  | .next s => .next (f s)
  | .fault r => .fault r
  | .refused r => .refused r

/-- Drain a state that a step of the packet's interpretation gave (R65, R86). -/
def thenDrain (o : Host.Outcome State Fault Refusal) : Host.Outcome State Fault Refusal := mapNext drain o

/-- On the clock a completed packet stays in the buffer while its records are presented (R125): the state after
operation `i`, with the buffer not yet drained when `i` completed a packet. -/
def holdPacket (i : Instr) (before after : State) : State :=
  match i with
  | .acceptLast ev => { after with buf := before.buf ++ [entryOf ev], expectedLength := before.expectedLength }
  | .reset => after
  | .ignore _ => after
  | .acceptDst _ => after
  | .acceptLen _ => after
  | .acceptBody _ => after
  | .interpret => after
  | .lookup _ => after
  | .csum8 _ => after
  | .crc16 _ => after

/-- The configuration has a meaning (R17, R87, U6). -/
def State.admitted (s : State) : Bool := decide (s.csumMode = .csum8)

/-- Go on only in an admitted configuration (R87, U6; log entry 9). -/
def whenAdmitted (s : State) (k : State → Host.Outcome State Fault Refusal) : Host.Outcome State Fault Refusal :=
  if s.admitted then k s else .refused .csumModeCrc16

/-- Go on only in an admitted configuration and in the sub-case `p` (R47; log entry 8). -/
def whenSubcase (p : Subcase) (s : State) (k : State → Host.Outcome State Fault Refusal) :
    Host.Outcome State Fault Refusal :=
  whenAdmitted s fun t => if t.subcase = some p then k t else .refused .subcaseNotSelected

/-- `RESET` (R71), with the records not yet taken abandoned (R126). -/
def resetFramer (s : State) : State := { drain s with pending := [] }

/-- What a function row gives back is kept for the reader of the state (log entry 5). -/
def setResult (r : FnResult) (s : State) : State := { s with fnResult := some r }

/-- The clock edge in hand is taken from the host's list. -/
def takeEdge (rest : List Edge) (s : State) : State := { s with edges := rest, edgeCount := s.edgeCount + 1 }

/-- The first record left is taken by the receiver (R24). -/
def transferRecord (r : PortRecord) (rest : List PortRecord) (s : State) : State :=
  { s with pending := rest, transferred := s.transferred ++ [r] }

/-- `ev_ready` (R124): 1 whenever no record of a completed packet is left to take. -/
def State.evReady (s : State) : Bool := s.pending.isEmpty

/-- `an_valid` (R125). -/
def State.anValid (s : State) : Bool := !s.pending.isEmpty

/-- `pk_valid` (R25): 1 exactly while `an_valid = 1` and `an_cls = 6`. -/
def State.pkValid (s : State) : Bool :=
  match s.pending with
  | [] => false
  | r :: _ => decide (r.ann.cls = 6)

/-- The output pins (R23 to R25, R27): the first record not yet taken, free values where a valid signal is 0 (U12;
log entry 13). -/
def State.outPins (s : State) : OutPins :=
  match s.pending with
  | [] =>
    { evReady := s.evReady, anValid := s.anValid
      anSs := Config.undrivenSs s.edgeCount, anEs := Config.undrivenEs s.edgeCount
      anCls := Config.undrivenCls s.edgeCount, anValue := Config.undrivenValue s.edgeCount
      anKnown := Config.undrivenKnown s.edgeCount
      pkValid := s.pkValid, pkCsum := Config.undrivenCsum s.edgeCount, pkOk := Config.undrivenOk s.edgeCount }
  | r :: _ =>
    { evReady := s.evReady, anValid := s.anValid
      anSs := r.ann.ss, anEs := r.ann.es, anCls := r.ann.cls, anValue := r.ann.value, anKnown := r.ann.known
      pkValid := s.pkValid
      pkCsum :=
        match r.status with
        | some st => st.csum
        | none => Config.undrivenCsum s.edgeCount
      pkOk :=
        match r.status with
        | some st => st.ok
        | none => Config.undrivenOk s.edgeCount }

/-- When the last record has been taken the framer drains the buffer (R125). -/
def drainWhenTaken (s : State) : State :=
  match s.pending with
  | [] => drain s
  | _ :: _ => s

/-- The receiver takes the presented record on an edge with `an_valid = 1` and `an_ready = 1` (R24); with the fifth
record of a packet goes the drain (R125). -/
def takeRecord (e : Edge) (s : State) : State :=
  match s.pending with
  | [] => s
  | r :: rest => if e.anReady then drainWhenTaken (transferRecord r rest s) else s

/-- The edge delivers an event or a reset (R22, R23, R126): `ready` is `ev_ready` before the edge. -/
def Edge.acts (e : Edge) (ready : Bool) : Bool := e.rst || (e.evValid && ready)

/-- The wires of an edge as the decoder reads them (R47). -/
def Edge.word (e : Edge) : EventWord := { sel := selector e.rst e.ecw, ss := e.evSs, es := e.evEs }

end Sys2Proof.Machine
end

