-- ==== Sys2Proof/Machine/Accept.lean ====
section
/-! DEFINITION. The four sub-cases of `ACCEPT` (R65 to R69). -/

namespace Sys2Proof.Machine

/-- `ACCEPT.DST` (R67): the first byte of a packet is appended. -/
def execAcceptDst (ev : Event) (s : State) : Host.Outcome State Fault Refusal :=
  whenSubcase .dst s fun t => appendThen (entryOf ev) t .next

/-- `ACCEPT.LEN` (R66): the second byte is appended and sets `expected_length`. -/
def execAcceptLen (ev : Event) (s : State) : Host.Outcome State Fault Refusal :=
  whenSubcase .len s fun t => appendThen (entryOf ev) t fun u => .next (setLength ev.value u)

/-- `ACCEPT.BODY` (R68): the byte is buffered silently. -/
def execAcceptBody (ev : Event) (s : State) : Host.Outcome State Fault Refusal :=
  whenSubcase .body s fun t => appendThen (entryOf ev) t .next

/-- `ACCEPT.LAST` (R69): append, interpret, drain, in one step (R38). -/
def execAcceptLast (ev : Event) (s : State) : Host.Outcome State Fault Refusal :=
  whenSubcase .last s fun t => appendThen (entryOf ev) t fun u => thenDrain (interpretBuffer u)

end Sys2Proof.Machine
end

