-- ==== Sys2Proof/Machine/Control.lean ====
section
/-! DEFINITION. `RESET` and `IGNORE` (R70, R71). -/

namespace Sys2Proof.Machine

/-- `RESET` (R71, R126): the framer's state to its reset value, no output, from any state. -/
def execReset (s : State) : Host.Outcome State Fault Refusal := .next (resetFramer s)

/-- `IGNORE` (R70): no state change, no output; nothing of the event is read. -/
def execIgnore (_ev : Event) (s : State) : Host.Outcome State Fault Refusal := .next s

end Sys2Proof.Machine
end

