-- ==== Sys2Proof/Machine/Functions.lean ====
section
/-! DEFINITION. The pure function rows `LOOKUP` (R61), `CSUM8` (R88) and `CRC16` (R92). They write no state of the
framer; what they give back stands in `fnResult` (log entry 5). -/

namespace Sys2Proof.Machine

/-- `LOOKUP(code)` with `KNOWN(code)` (R61, R62). -/
def execLookup (code : Byte) (s : State) : Host.Outcome State Fault Refusal :=
  .next (setResult (.text (lookupText s.cmdTable code) (lookupKnown s.cmdTable code)) s)

/-- `CSUM8(bs)` (R88). -/
def execCsum8 (bs : List Byte) (s : State) : Host.Outcome State Fault Refusal :=
  .next (setResult (.byte (csum8 bs)) s)

/-- `CRC16(bs)` (R92). -/
def execCrc16 (bs : List Byte) (s : State) : Host.Outcome State Fault Refusal :=
  .next (setResult (.word (crc16 bs)) s)

end Sys2Proof.Machine
end

