-- ==== Sys2Proof/Machine/Interpret.lean ====
section
/-! DEFINITION. `INTERPRET` (R77 to R85) as a row of its own: the records, without the drain, which is the
completing step's (R65). -/

namespace Sys2Proof.Machine

/-- `INTERPRET` (R77). -/
def execInterpret (s : State) : Host.Outcome State Fault Refusal := whenAdmitted s interpretBuffer

end Sys2Proof.Machine
end

