-- ==== Sys2Proof/Machine/Dispatch.lean ====
section
/-! DEFINITION. The one dispatch: an arm for each constructor of `Instr`. -/

namespace Sys2Proof.Machine

def exec (i : Instr) (s : State) : Host.Outcome State Fault Refusal :=
  match i with
  | .reset => Sys2Proof.Machine.execReset s
  | .ignore ev => Sys2Proof.Machine.execIgnore ev s
  | .acceptDst ev => Sys2Proof.Machine.execAcceptDst ev s
  | .acceptLen ev => Sys2Proof.Machine.execAcceptLen ev s
  | .acceptBody ev => Sys2Proof.Machine.execAcceptBody ev s
  | .acceptLast ev => Sys2Proof.Machine.execAcceptLast ev s
  | .interpret => Sys2Proof.Machine.execInterpret s
  | .lookup code => Sys2Proof.Machine.execLookup code s
  | .csum8 bs => Sys2Proof.Machine.execCsum8 bs s
  | .crc16 bs => Sys2Proof.Machine.execCrc16 bs s

end Sys2Proof.Machine
end

