-- ==== Sys2Proof/Machine/Port.lean ====
section
/-! DEFINITION. The transaction-level step (R65) and the clock edge around it (R22 to R24, R124 to R126). -/

namespace Sys2Proof.Machine

/-- Run what a selection gave, or refuse it by the name of what the selection refused. -/
def runSelected (r : Except DecodeRefusal Instr) (s : State) : Host.Outcome State Fault Refusal :=
  match r with
  | .ok i => exec i s
  | .error d => .refused (.undecodable d)

/-- `STEP(rst, ev)` (R65): the transaction-level step, the normative one (R5). -/
def transact (rst : Bool) (e : InEvent) (s : State) : Host.Outcome State Fault Refusal :=
  runSelected (select s.subcase rst e) s

/-- The same for the wires of the event port (R47). -/
def deliver (w : EventWord) (s : State) : Host.Outcome State Fault Refusal :=
  runSelected (decode s.subcase w) s

/-- A selection that is run on a clock edge: the operation's effect, but for the drain of a completed packet, which
waits until its records are taken (R125). -/
def runOnEdge (r : Except DecodeRefusal Instr) (s : State) : Host.Outcome State Fault Refusal :=
  match r with
  | .ok i => mapNext (holdPacket i s) (exec i s)
  | .error d => .refused (.undecodable d)

/-- The wires of the event port on an edge that delivers (R47, R125). -/
def deliverOnEdge (w : EventWord) (s : State) : Host.Outcome State Fault Refusal :=
  runOnEdge (decode s.subcase w) s

/-- One rising edge of `clk`: the receiver takes the presented record if it is ready (R24), and the edge delivers a
reset or an event if it acts (R22, R23), with `ev_ready` as it stood before the edge. -/
def clockEdge (e : Edge) (s : State) : Host.Outcome State Fault Refusal :=
  if e.acts s.evReady then deliverOnEdge e.word (takeRecord e s) else .next (takeRecord e s)

/-- One step of the machine: the next clock edge the host drives; with none, the framer is idle and holds its state
(R112, R119; log entry 2). A configuration without a meaning is refused (U6; log entry 9). -/
def cycle (s : State) : Host.Outcome State Fault Refusal :=
  whenAdmitted s fun t =>
    match t.edges with
    | [] => .next t
    | e :: rest => clockEdge e (takeEdge rest t)

/-- The edge on which the host delivers the event, or the reset, whose selector is `sel`, with both offsets 0. -/
def Edge.ofSelector (sel : BitVec 11) : Edge :=
  { rst := sel[10], evValid := true, ecw := sel.extractLsb' 0 10, evSs := 0, evEs := 0, anReady := false }

/-- `s` with that edge next, and with no record left to take, so that the edge delivers (R23, R124; log entry 17). -/
def placeSelector (sel : BitVec 11) (s : State) : State :=
  { s with edges := Edge.ofSelector sel :: s.edges, pending := [] }

end Sys2Proof.Machine
end

