-- ==== Sys2Proof/Machine/Step.lean ====
section
/-! DEFINITION. The step of the machine, and how the host places an operation's word before it. -/

namespace Sys2Proof.Machine

/-- One step: one rising edge of `clk` (R22 to R24, R65, R124 to R126). -/
def step (s : State) : Host.Outcome State Fault Refusal := cycle s

/-- `s` with the operation of a table word as what the next step delivers (log entry 17). A word that is no selector
is not placed. -/
def State.withFetchWord (s : State) (nbits w : Nat) : State :=
  match tableSelector nbits w with
  | some sel => placeSelector sel s
  | none => s

end Sys2Proof.Machine
end

