-- ==== Sys2Proof/Laws/PerInstr.lean ====
section
/-! SUPPORT. Statements made per instruction. `RowMatch`: the encoder gives an operation a word exactly where the
selection table of R47 gives it a row, and the word matches the row's match and mask. -/

namespace Sys2Proof.Laws.RowMatch

/-- An encoded operation's selector matches its row of R47; a function row has neither word nor row. -/
def Statement (i : Instr) : Prop :=
  match encode i, selMatchMask i with
  | some w, some (m, k) => w.sel &&& k = m
  | none, none => True
  | some _, none => False
  | none, some _ => False

/-- The bits of a data event's selector that the table's mask keeps (R45). -/
theorem data_masked (ev : Event) : (eventWord .data ev).sel &&& 0x600#11 = 0x200#11 := by
  have h : ∀ (a : BitVec 1) (v : Byte), (BitVec.ofBool false ++ (1#1 ++ a ++ v)) &&& 0x600#11 = 0x200#11 := by
    decide
  exact h ev.aux ev.value

/-- The bits of a non-data event's selector that the table's mask keeps (R45). -/
theorem other_masked (ev : Event) : (eventWord .other ev).sel &&& 0x600#11 = 0x000#11 := by
  have h : ∀ (a : BitVec 1) (v : Byte), (BitVec.ofBool false ++ (0#1 ++ a ++ v)) &&& 0x600#11 = 0x000#11 := by
    decide
  exact h ev.aux ev.value

theorem reset : Statement .reset :=
  show (0x400#11 &&& 0x400#11) = 0x400#11 from by decide

theorem ignore (ev : Event) : Statement (.ignore ev) := other_masked ev

theorem acceptDst (ev : Event) : Statement (.acceptDst ev) := data_masked ev

theorem acceptLen (ev : Event) : Statement (.acceptLen ev) := data_masked ev

theorem acceptBody (ev : Event) : Statement (.acceptBody ev) := data_masked ev

theorem acceptLast (ev : Event) : Statement (.acceptLast ev) := data_masked ev

theorem interpret : Statement .interpret := trivial

theorem lookup (code : Byte) : Statement (.lookup code) := trivial

theorem csum8 (bs : List Byte) : Statement (.csum8 bs) := trivial

theorem crc16 (bs : List Byte) : Statement (.crc16 bs) := trivial

end Sys2Proof.Laws.RowMatch
end

