-- ==== Sys2Proof/Machine/Stream.lean ====
section
/-! DEFINITION. Deliveries one after another at the transaction level (R5, R40), and the greedy cut of a stream of data
events into packets (R73). -/

namespace Sys2Proof.Machine

/-- A delivery at the transaction level: `rst` and the event (R65). -/
structure Delivery where
  rst : Bool
  event : InEvent
deriving DecidableEq, Repr

/-- Go on from a next state; stop at a fault or a refusal. -/
def andThen (o : Host.Outcome State Fault Refusal) (k : State → Host.Outcome State Fault Refusal) :
    Host.Outcome State Fault Refusal :=
  match o with
  | .next s => k s
  | .fault r => .fault r
  | .refused r => .refused r

/-- The deliveries in order, each complete before the next begins (R40). -/
def transactAll (ds : List Delivery) (s : State) : Host.Outcome State Fault Refusal :=
  match ds with
  | [] => .next s
  | d :: rest => andThen (transact d.rst d.event s) (transactAll rest)

/-- The delivery of a data event (R65). -/
def dataDelivery (ev : Event) : Delivery := { rst := false, event := { kind := .data, ev := ev } }

/-- Data events delivered in order. -/
def feed (evs : List Event) (s : State) : Host.Outcome State Fault Refusal := transactAll (evs.map dataDelivery) s

/-- The packets cut greedily from the front of a stream of data events, and what is left over (R73): a packet that
starts at a position has the length its second byte gives plus 5. `fuel` bounds the number of packets. -/
def cutFrom (fuel : Nat) (evs : List Event) : List (List Event) × List Event :=
  match fuel with
  | 0 => ([], evs)
  | n + 1 =>
    match evs with
    | _ :: l :: _ =>
      if l.value.toNat + 5 ≤ evs.length then
        let r := cutFrom n (evs.drop (l.value.toNat + 5))
        (evs.take (l.value.toNat + 5) :: r.1, r.2)
      else ([], evs)
    | _ => ([], evs)

/-- The cut of a stream (R73); a stream holds no more packets than events. -/
def cutPackets (evs : List Event) : List (List Event) × List Event := cutFrom evs.length evs

/-- The annotation records of one packet's events (R80, R81). -/
def eventAnnotations (table : CmdTable) (evs : List Event) : List Annotation :=
  match packetAnnotations table (evs.map entryOf) with
  | some anns => anns
  | none => []

/-- The status record of one packet's events (R85). -/
def eventStatus (evs : List Event) : Status := statusOf (values (evs.map entryOf))

/-- What the output ports present for one packet's events (R55, R125). -/
def eventPortRecords (table : CmdTable) (evs : List Event) : List PortRecord :=
  (eventAnnotations table evs).map (portRecord table (eventStatus evs))

end Sys2Proof.Machine
end

