-- ==== Sys2Proof/Machine/Compact.lean ====
section
/-! DEFINITION. The smaller implementation that rules R20 and R96 allow: a running 8-bit sum, the four header entries
and the latest end offset in place of the full buffer. It is not the model; a statement says it cannot be told from it. -/

namespace Sys2Proof.Machine

/-- What the smaller implementation holds (R20). -/
structure Compact where
  count : Nat
  expectedLength : Len
  /-- The running sum (R96). -/
  sum : Byte
  /-- The entries of indexes 0 to 3, as far as they have arrived (R20). -/
  header : List Entry
  /-- The latest entry's end offset (R20). -/
  lastEs : Offset
deriving DecidableEq, Repr

/-- What a completing step of it gives out: the records and the status. -/
structure CompactOut where
  annotations : List Annotation
  statuses : List Status
deriving DecidableEq, Repr

/-- Its empty state. -/
def Compact.empty : Compact := { count := 0, expectedLength := 0, sum := 0, header := [], lastEs := 0 }

/-- What it holds when the framer holds `s` (R20, R96); the latest end offset is 0 while nothing has arrived. -/
def compactOf (s : State) : Compact :=
  { count := s.count, expectedLength := s.expectedLength, sum := csum8 (values s.buf), header := s.buf.take 4,
    lastEs :=
      match s.buf.getLast? with
      | some e => e.es
      | none => 0 }

/-- Its append: the entry is kept only where an output will read it (R20). -/
def Compact.append (e : Entry) (c : Compact) : Compact :=
  { c with
    count := c.count + 1
    sum := c.sum + e.value
    header := if c.count < 4 then c.header ++ [e] else c.header
    lastEs := e.es }

/-- The records it gives out at completion, from the header entries, the sum and the latest end offset. -/
def Compact.records (table : CmdTable) (c : Compact) : CompactOut :=
  match c.header with
  | [e0, e1, e2, e3] =>
    { annotations :=
        [ { ss := e0.ss, es := e0.es, cls := .destination, label := .field e0.value },
          { ss := e1.ss, es := e1.es, cls := .length, label := .field e1.value },
          { ss := e2.ss, es := e2.es, cls := .source, label := .field e2.value },
          { ss := e3.ss, es := e3.es, cls := .commandHeader, label := .field e3.value },
          { ss := e0.ss, es := c.lastEs, cls := .packetSummary,
            label := .summary e3.value (lookupText table e3.value) } ]
      statuses := [{ csum := c.sum, ok := verdict c.sum }] }
  | _ => { annotations := [], statuses := [] }

/-- Its accept of a data event, the order of tests that of R65. -/
def Compact.accept (table : CmdTable) (ev : Event) (c : Compact) : Compact × CompactOut :=
  let d := c.append (entryOf ev)
  if d.count = 2 then ({ d with expectedLength := totalLength ev.value }, { annotations := [], statuses := [] })
  else if d.count = d.expectedLength.toNat then (Compact.empty, d.records table)
  else (d, { annotations := [], statuses := [] })

/-- Its step, the selection that of R65: a reset empties it, a non-data event leaves it as it is. -/
def Compact.step (table : CmdTable) (rst : Bool) (e : InEvent) (c : Compact) : Compact × CompactOut :=
  if rst then (Compact.empty, { annotations := [], statuses := [] })
  else
    match e.kind with
    | .other => (c, { annotations := [], statuses := [] })
    | .data => Compact.accept table e.ev c

end Sys2Proof.Machine
end

