-- ==== Sys2Proof/Machine/Conditions.lean ====
section
/-! DEFINITION. The six named conditions of rule R97. They are labels: nothing is raised (R103) and no rule reads
them; this file says when each holds. -/

namespace Sys2Proof.Machine

/-- The conditions E1 to E6 (R97). -/
inductive Condition where
  | nonDataEvent
  | valueOutOfRange
  | nonMonotonicTiming
  | checksumMismatch
  | unknownCommand
  | unterminatedPacket
deriving DecidableEq, Repr

/-- The code of a condition (R97). -/
def Condition.code (c : Condition) : String :=
  match c with
  | .nonDataEvent => "E1"
  | .valueOutOfRange => "E2"
  | .nonMonotonicTiming => "E3"
  | .checksumMismatch => "E4"
  | .unknownCommand => "E5"
  | .unterminatedPacket => "E6"

/-- The packet a data event would complete in this state, if it completes one (R69). -/
def completedBy (ev : Event) (s : State) : Option (List Entry) :=
  if s.subcase = some .last then some (s.buf ++ [entryOf ev]) else none

/-- The command byte of a packet (R36). -/
def commandOf (buf : List Entry) : Option Byte := (buf[3]?).map (fun e => e.value)

/-- A data event's offsets are lower than the previous accepted data event's (R97 E3, with the comparison of R118). -/
def offsetsFall (prev : Option Event) (ev : Event) : Bool :=
  match prev with
  | none => false
  | some p => decide (ev.ss < p.ss ∨ ev.es < p.es)

/-- Whether a condition holds for the delivery of `e` in state `s`, where `prev` is the data event accepted before it
(R97 to R104). E2 cannot be written (R99). E6 is no step's condition: it is that of a state that is held (R104). -/
def Condition.meets (c : Condition) (prev : Option Event) (e : InEvent) (s : State) : Bool :=
  match c, e.kind with
  | .nonDataEvent, .other => true
  | .nonDataEvent, .data => false
  | .valueOutOfRange, _ => false
  | .nonMonotonicTiming, .data => offsetsFall prev e.ev
  | .nonMonotonicTiming, .other => false
  | .checksumMismatch, .data =>
    match completedBy e.ev s with
    | some buf => !verdict (csum8 (values buf))
    | none => false
  | .checksumMismatch, .other => false
  | .unknownCommand, .data =>
    match completedBy e.ev s with
    | some buf =>
      match commandOf buf with
      | some c => !lookupKnown s.cmdTable c
      | none => false
    | none => false
  | .unknownCommand, .other => false
  | .unterminatedPacket, _ => false

/-- E6 (R104): deliveries have stopped and a partial packet is held. While the records of a completed packet are
presented (R125) the packet held is no partial one. -/
def unterminated (s : State) : Bool := decide (s.stored = some .lenPending ∨ s.stored = some .accumulating)

end Sys2Proof.Machine
end

