-- ==== Sys2Proof/Machine/Stimulus.lean ====
section
/-! DEFINITION. The stimulus script of rules R58 and R59, its lines as structured data (log entry 18). -/

namespace Sys2Proof.Machine

/-- A line of a script (R58). -/
inductive Line where
  /-- `RST`. -/
  | rst
  /-- `D <value> @<ss>..<es>`. -/
  | d (value : Byte) (ss es : Offset)
  /-- `D.1 <value> @<ss>..<es>`. -/
  | d1 (value : Byte) (ss es : Offset)
  /-- `X @<ss>..<es>`. -/
  | x (ss es : Offset)
deriving DecidableEq, Repr

/-- The line's `SEL` (R58). -/
def Line.sel (l : Line) : BitVec 11 :=
  match l with
  | .rst => 0x400#11
  | .d v _ _ => 0x200#11 + v.setWidth 11
  | .d1 v _ _ => 0x300#11 + v.setWidth 11
  | .x _ _ => 0x000#11

/-- The line's delivery (R58). `RST` delivers no event. -/
def Line.delivery (l : Line) : Delivery :=
  match l with
  | .rst => { rst := true, event := { kind := .other, ev := { aux := 0, value := 0, ss := 0, es := 0 } } }
  | .d v ss es => { rst := false, event := { kind := .data, ev := { aux := 0, value := v, ss := ss, es := es } } }
  | .d1 v ss es => { rst := false, event := { kind := .data, ev := { aux := 1, value := v, ss := ss, es := es } } }
  | .x ss es => { rst := false, event := { kind := .other, ev := { aux := 0, value := 0, ss := ss, es := es } } }

/-- The lines of `PKT` from offset `t` on, without its requirement (R59). -/
def pktLines (bs : List Byte) (t w p : Nat) : List Line :=
  match bs with
  | [] => []
  | b :: rest => .d b t (t + w) :: pktLines rest (t + p) w p

/-- `PKT <b0> ... @<t> +<w> /<p>` (R59); it requires `w <= p`. -/
def pkt (bs : List Byte) (t w p : Nat) : Option (List Line) := if w ≤ p then some (pktLines bs t w p) else none

/-- The bytes of a `MKPKT` before the checksum byte (R59). -/
def mkpktHead (dst src cmd : Byte) (data : List Byte) : List Byte :=
  dst :: BitVec.ofNat 8 data.length :: src :: cmd :: data

/-- `MKPKT <dst> <src> <cmd> [<data>] @<t> +<w> /<p>` (R59); the number of data bytes is 0 to 255. -/
def mkpkt (dst src cmd : Byte) (data : List Byte) (t w p : Nat) : Option (List Line) :=
  if data.length ≤ 255 then
    pkt (mkpktHead dst src cmd data ++ [validByte (mkpktHead dst src cmd data)]) t w p
  else none

/-- A script, run at the transaction level (R58). -/
def runScript (ls : List Line) (s : State) : Host.Outcome State Fault Refusal :=
  transactAll (ls.map Line.delivery) s

/-- A hexadecimal digit, capital above 9 (R58's form `0xFE`). -/
def hexDigit (n : Nat) : Char := if n < 10 then Char.ofNat (48 + n) else Char.ofNat (55 + n)

/-- A byte as two hexadecimal digits, for a status record's text (R58). -/
def hexByte (v : Byte) : String := String.ofList [hexDigit (v.toNat / 16), hexDigit (v.toNat % 16)]

/-- An annotation record's line of expected output (R58). -/
def annotationLine (fmt : Byte → String → String) (a : Annotation) : String :=
  "A " ++ Nat.repr a.ss ++ ".." ++ Nat.repr a.es ++ " " ++ Nat.repr (classIndex a.cls).toNat ++ " \"" ++
    labelText fmt a ++ "\""

/-- A status record's line of expected output (R58). -/
def statusLine (st : Status) : String :=
  "S csum=0x" ++ hexByte st.csum ++ " ok=" ++ (if st.ok then "1" else "0")

/-- A state's line (R58). -/
def stateLine (s : State) : String :=
  "count=" ++ Nat.repr s.count ++ " exp=" ++ Nat.repr s.expectedLength.toNat

end Sys2Proof.Machine
end

