-- ==== Sys2Proof/Machine/System.lean ====
section
/-! DEFINITION. Several framers over one Command Table (R43, R110): each has its own buffer, length and ports, the
table is shared, and a step is a step of one of them (log entry 20). -/

namespace Sys2Proof.Machine

/-- The framers of a system, in an order they cannot see, and the table they share (R110). A framer's own field
`cmdTable` is not read in a system: the shared table stands for it. -/
structure System where
  table : CmdTable
  framers : List State
deriving DecidableEq, Repr

/-- A framer as it sees the shared table. -/
def withTable (table : CmdTable) (s : State) : State := { s with cmdTable := table }

/-- A step of the framer at position `k`, on the shared table as it stands, with what the step leaves of the table put
back; no step where there is no framer, or where its step stops. -/
def stepAt (k : Nat) (sys : System) : Option System :=
  match sys.framers[k]? with
  | none => none
  | some s =>
    match step (withTable sys.table s) with
    | .next t => some { table := t.cmdTable, framers := sys.framers.set k t }
    | .fault _ => none
    | .refused _ => none

end Sys2Proof.Machine
end

