-- ==== Sys2Proof/Safety.lean ====
section
/-! DEFINITION. What claims are stated in: the invariant of rule R14 with what the ports and the static parameters
add to it, and the host's contract of rule R118. -/

namespace Sys2Proof.Machine

/-- R14 item 1: `count < 2` if and only if `expected_length = 0`. -/
def State.lengthKnownFromTwo (s : State) : Prop := s.count < 2 ↔ s.expectedLength = 0

/-- R14 item 2: if `count >= 2` then `expected_length = buf[1].value + 5`. -/
def State.lengthIsSecondByte (s : State) : Prop :=
  ∀ e, s.buf[1]? = some e → s.expectedLength.toNat = e.value.toNat + 5

/-- R14 item 3: if `count >= 2` then `count < expected_length`. -/
def State.countBelowLength (s : State) : Prop := 2 ≤ s.count → s.count < s.expectedLength.toNat

/-- The class indexes of the records of a packet in the order they are presented (R84). -/
def recordClasses : List (BitVec 3) := [0, 1, 2, 3, 6]

/-- The records left to take are the end of one packet's five, with the status beside the class 6 record and no other
(R25, R125). -/
def State.portShape (s : State) : Prop :=
  s.pending.map (fun r => r.ann.cls) <:+ recordClasses ∧
    ∀ r ∈ s.pending, (r.status.isSome ↔ r.ann.cls = 6)

/-- While records are left to take, the framer holds the whole packet they belong to, and they are the end of that
packet's five records (R125: it is drained when the fifth has been taken). -/
def State.holdsWhileEmitting (s : State) : Prop :=
  s.pending ≠ [] →
    s.count = s.expectedLength.toNat ∧
      ∃ anns, packetAnnotations s.cmdTable s.buf = some anns ∧
        s.pending <:+ anns.map (portRecord s.cmdTable (statusOf (values s.buf)))

/-- The invariant of the clocked machine: R14, whose item 3 holds between two transaction steps and so while no record
is left to take, the admitted configuration (R17), and the emission (R125). -/
structure State.Inv (s : State) : Prop where
  lengthKnown : s.lengthKnownFromTwo
  lengthByte : s.lengthIsSecondByte
  below : s.pending = [] → s.countBelowLength
  mode : s.csumMode = .csum8
  ports : s.portShape
  emitting : s.holdsWhileEmitting

/-- The framer's own part of the invariant: R14 and the admitted configuration, whatever the ports hold. -/
structure State.FramerInv (s : State) : Prop where
  lengthKnown : s.lengthKnownFromTwo
  lengthByte : s.lengthIsSecondByte
  below : s.countBelowLength
  mode : s.csumMode = .csum8

/-- `p` is accepted just before `e` without breaking the contract on offsets (R118 premise 3, D13). -/
def notBefore (p e : Event) : Prop := p.ss ≤ e.ss ∧ p.es ≤ e.es

/-- The contract on offsets for a list of consecutive accepted data events (R118 premise 3). -/
def hostContract (evs : List Event) : Prop :=
  match evs with
  | [] => True
  | e :: rest =>
    e.ss ≤ e.es ∧
      (match rest with
        | [] => True
        | f :: _ => notBefore e f) ∧
      hostContract rest

/-- The end of the framer's state as the document names it after a packet: EMPTY (R75). -/
def State.isEmpty (s : State) : Prop := s.buf = [] ∧ s.expectedLength = 0

/-- The outcome is a next state. -/
def answersNext (o : Host.Outcome State Fault Refusal) : Prop := ∃ t, o = .next t

end Sys2Proof.Machine
end

