-- ==== Sys2Proof/Certificates/Slice0/Obligations.lean ====
section
/-! DEFINITION. The statements for the provers, from the numbered rules of spec/. -/

open Sys2Proof Sys2Proof.Machine

/-! ## Encoding -/

/-- R45, R47, R57: for every operation that an input selects, with every operand the wires can carry, decoding its
word in the sub-case it needs gives it back. -/
def Obligations.DecodeOfEncodeIsTheOperation : Prop :=
  ∀ (i : Instr) (w : EventWord), i.wellFormed = true → encode i = some w → decode (subcaseOf i) w = .ok i

/-- R45, R47: a word with `rst = 0` is the word of whatever operation it decodes to, so no bit of it is dropped. -/
def Obligations.EncodeOfDecodeIsTheWord : Prop :=
  ∀ (p : Option Subcase) (w : EventWord) (i : Instr),
    w.rst = false → decode p w = .ok i → encode i = some w ∧ i.wellFormed = true

/-- R47, the selection table: match, mask and state condition of each row; no word for a function row; and in every
state that meets R14 some row is selected. -/
def Obligations.SelectionTable : Prop :=
  (∀ (s : State) (w : EventWord),
    (w.sel &&& 0x400#11 = 0x400#11 → decode s.subcase w = .ok .reset) ∧
    (w.sel &&& 0x600#11 = 0x000#11 → decode s.subcase w = .ok (.ignore w.event)) ∧
    (w.sel &&& 0x600#11 = 0x200#11 →
      (s.count = 0 → decode s.subcase w = .ok (.acceptDst w.event)) ∧
      (s.count = 1 → decode s.subcase w = .ok (.acceptLen w.event)) ∧
      (2 ≤ s.count → s.count + 1 < s.expectedLength.toNat → decode s.subcase w = .ok (.acceptBody w.event)) ∧
      (2 ≤ s.count → s.count + 1 = s.expectedLength.toNat → decode s.subcase w = .ok (.acceptLast w.event)))) ∧
  (∀ (code : Byte) (bs : List Byte),
    encode .interpret = none ∧ encode (.lookup code) = none ∧ encode (.csum8 bs) = none ∧ encode (.crc16 bs) = none) ∧
  (∀ (s : State) (w : EventWord), s.FramerInv → ∃ i, decode s.subcase w = .ok i)

/-- R45: where the fields of the event control word stand in every word, that the encoder puts them there, the
document's three examples, and the fields no rule reads: `aux` always, `value` of a non-data event. -/
def Obligations.EventControlWordLayout : Prop :=
  (∀ w : EventWord,
    w.rst = w.sel[10] ∧ (w.kind = .data ↔ w.sel[9] = true) ∧ (w.kind = .other ↔ w.sel[9] = false) ∧
    w.aux = BitVec.ofBool w.sel[8] ∧ ∀ (k : Nat) (h : k < 8), w.value[k] = w.sel[k]) ∧
  (∀ (rst : Bool) (k : EventKind) (ev : Event) (ss es : PortOffset),
    let w : EventWord := { sel := selector rst (ecw k ev), ss := ss, es := es }
    w.rst = rst ∧ w.kind = k ∧ w.aux = ev.aux ∧ w.value = ev.value) ∧
  (∀ ss es : Offset,
    ecw .data { aux := 0, value := 0x02, ss := ss, es := es } = 0x202#10 ∧
    ecw .data { aux := 1, value := 0x02, ss := ss, es := es } = 0x302#10 ∧
    ecw .other { aux := 0, value := 0x00, ss := ss, es := es } = 0x000#10) ∧
  (∀ word : BitVec 10, word[9] = false →
    ∀ ss es : PortOffset, ({ sel := selector false word, ss := ss, es := es } : EventWord).kind = .other) ∧
  (∀ (rst : Bool) (k : EventKind) (ev : Event) (a : BitVec 1) (s : State),
    transact rst { kind := k, ev := { ev with aux := a } } s = transact rst { kind := k, ev := ev } s) ∧
  (∀ (rst : Bool) (ev : Event) (v : Byte) (s : State),
    transact rst { kind := .other, ev := { ev with value := v } } s = transact rst { kind := .other, ev := ev } s)

/-- Words written out from R45 and from the SEL column of `95_test_vectors.md` section 2.1 and program P2 decode to
the operations they stand for. The last clause is the model's: a data event in a state that gives no sub-case selects
nothing (log entry 7, DEDUCED). -/
def Obligations.SelectorWordsDecode : Prop :=
  decode (some .dst) { sel := 0x400#11, ss := 0, es := 0 } = .ok .reset ∧
  decode (some .body) { sel := 0x7FF#11, ss := 1, es := 2 } = .ok .reset ∧
  decode (some .dst) { sel := 0x1FF#11, ss := 5, es := 6 } = .ok (.ignore { aux := 1, value := 0xFF, ss := 5, es := 6 }) ∧
  decode (some .dst) { sel := 0x202#11, ss := 10, es := 18 } =
    .ok (.acceptDst { aux := 0, value := 0x02, ss := 10, es := 18 }) ∧
  decode (some .len) { sel := 0x203#11, ss := 20, es := 28 } =
    .ok (.acceptLen { aux := 0, value := 0x03, ss := 20, es := 28 }) ∧
  decode (some .body) { sel := 0x3E5#11, ss := 1030, es := 1039 } =
    .ok (.acceptBody { aux := 1, value := 0xE5, ss := 1030, es := 1039 }) ∧
  decode (some .last) { sel := 0x2EF#11, ss := 50, es := 58 } =
    .ok (.acceptLast { aux := 0, value := 0xEF, ss := 50, es := 58 }) ∧
  decode none { sel := 0x200#11, ss := 0, es := 0 } = .error .noSubcase

/-! ## The operations -/

/-- R71: `RESET` completes in every state; the framer's state takes its reset value, nothing is emitted, nothing else
changes (untaken records are abandoned, R126); a word with `rst = 1` performs it whatever its other bits. -/
def Obligations.ResetClearsTheFramer : Prop :=
  ∀ s : State,
    exec .reset s = .next { s with buf := [], expectedLength := 0, pending := [] } ∧
    ({ s with buf := [], expectedLength := 0, pending := [] } : State).stored = some .empty ∧
    ∀ w : EventWord, w.rst = true → deliver w s = exec .reset s

/-- R70: `IGNORE` completes in every state with no effect at all, whatever the event carries, and every word of a
non-data event performs it. -/
def Obligations.IgnoreHasNoEffect : Prop :=
  ∀ s : State,
    (∀ ev : Event, exec (.ignore ev) s = .next s) ∧
    ∀ w : EventWord, w.rst = false → w.kind = .other → deliver w s = .next s

/-- R67: in EMPTY `ACCEPT.DST` completes, buffers the byte whatever its value, and changes nothing else; the state
after is LEN_PENDING. -/
def Obligations.AcceptDstBuffersTheFirstByte : Prop :=
  ∀ (ev : Event) (s : State), s.csumMode = .csum8 → s.isEmpty →
    exec (.acceptDst ev) s = .next { s with buf := [{ value := ev.value, ss := ev.ss, es := ev.es }] } ∧
    ({ s with buf := [{ value := ev.value, ss := ev.ss, es := ev.es }] } : State).stored = some .lenPending

/-- R66: with one byte buffered `ACCEPT.LEN` completes, buffers the byte, sets the length to its value plus 5 without
wrap, and changes nothing else; the state after is ACCUMULATING with two bytes; and no byte accepted by `ACCEPT.BODY`
changes the length again. -/
def Obligations.AcceptLenSetsTheLength : Prop :=
  (∀ (ev : Event) (s : State) (e0 : Entry), s.csumMode = .csum8 → s.buf = [e0] →
    ∃ t : State,
      exec (.acceptLen ev) s = .next t ∧
      t = { s with
        buf := [e0, { value := ev.value, ss := ev.ss, es := ev.es }]
        expectedLength := t.expectedLength } ∧
      t.expectedLength.toNat = ev.value.toNat + 5 ∧ t.count = 2 ∧ t.stored = some .accumulating) ∧
  (∀ (ev : Event) (s t : State), exec (.acceptBody ev) s = .next t → t.expectedLength = s.expectedLength)

/-- R68: `ACCEPT.BODY` completes under its condition, buffers the byte silently and changes nothing else. -/
def Obligations.AcceptBodyBuffersSilently : Prop :=
  ∀ (ev : Event) (s : State), s.csumMode = .csum8 → 2 ≤ s.count → s.count + 1 < s.expectedLength.toNat →
    s.expectedLength.toNat ≤ 260 →
    exec (.acceptBody ev) s =
      .next { s with buf := s.buf ++ [{ value := ev.value, ss := ev.ss, es := ev.es }] } ∧
    (5 ≤ s.expectedLength.toNat →
      ({ s with buf := s.buf ++ [{ value := ev.value, ss := ev.ss, es := ev.es }] } : State).stored = some .accumulating)

/-- R69: `ACCEPT.LAST` completes under its condition: the five annotation records and the status record of the packet
are emitted, the framer is drained, and nothing else changes. Output is read as the model holds it: appended to the two
tapes and to the queue of the ports (log entries 3 and 4). -/
def Obligations.AcceptLastCompletesThePacket : Prop :=
  ∀ (ev : Event) (s : State) (e0 e1 e2 e3 : Entry) (rest : List Entry),
    s.csumMode = .csum8 → s.buf = e0 :: e1 :: e2 :: e3 :: rest → rest.length + 5 = s.expectedLength.toNat →
    s.expectedLength.toNat ≤ 260 →
    let vals := s.buf.map (fun e => e.value) ++ [ev.value]
    let st : Status := { csum := csum8 vals, ok := decide (csum8 vals = 0) }
    let anns : List Annotation :=
      [ { ss := e0.ss, es := e0.es, cls := .destination, label := .field e0.value },
        { ss := e1.ss, es := e1.es, cls := .length, label := .field e1.value },
        { ss := e2.ss, es := e2.es, cls := .source, label := .field e2.value },
        { ss := e3.ss, es := e3.es, cls := .commandHeader, label := .field e3.value },
        { ss := e0.ss, es := ev.es, cls := .packetSummary,
          label := .summary e3.value (lookupText s.cmdTable e3.value) } ]
    exec (.acceptLast ev) s =
      .next { s with
        buf := []
        expectedLength := 0
        annotations := s.annotations ++ anns
        statuses := s.statuses ++ [st]
        pending := s.pending ++ anns.map (portRecord s.cmdTable st) }

/-- R65: in every state that meets R14 the step of a data event is the pseudocode of ACCEPT: append, then the
second-byte test, which returns, then the completion test, which interprets and drains. -/
def Obligations.AcceptFollowsThePseudocode : Prop :=
  ∀ (s : State) (e : InEvent), s.FramerInv →
    (transact true e s = exec .reset s) ∧
    (e.kind = .other → transact false e s = exec (.ignore e.ev) s) ∧
    (e.kind = .data →
      let u : State := { s with buf := s.buf ++ [{ value := e.ev.value, ss := e.ev.ss, es := e.ev.es }] }
      transact false e s =
        if u.count = 2 then .next { u with expectedLength := BitVec.setWidth 9 e.ev.value + 5#9 }
        else if u.count = u.expectedLength.toNat then thenDrain (exec .interpret u)
        else .next u)

/-- R77: `INTERPRET` completes on a whole packet. It emits the records of classes 0, 1, 2, 3 and 6 with their label
texts in that order and the status record, and changes nothing else. Output is read as the model holds it: appended to
the two tapes and to the queue of the ports (log entry 4). -/
def Obligations.InterpretEmitsTheRecords : Prop :=
  ∀ (s : State) (e0 e1 e2 e3 last : Entry) (mid : List Entry),
    s.csumMode = .csum8 → s.buf = e0 :: e1 :: e2 :: e3 :: (mid ++ [last]) → s.count = s.expectedLength.toNat →
    ∃ anns : List Annotation, ∃ st : Status,
      anns.map (annotationTuple summaryFmt) =
        [ (e0.ss, e0.es, 0, ["dst: " ++ dec e0.value]),
          (e1.ss, e1.es, 1, ["len: " ++ dec e1.value]),
          (e2.ss, e2.es, 2, ["src: " ++ dec e2.value]),
          (e3.ss, e3.es, 3, ["cmd: " ++ dec e3.value]),
          (e0.ss, last.es, 6, [dec e3.value ++ ": " ++ lookupText s.cmdTable e3.value]) ] ∧
      st.csum = csum8 (s.buf.map (fun e => e.value)) ∧
      (st.ok = true ↔ csum8 (s.buf.map (fun e => e.value)) = 0) ∧
      exec .interpret s =
        .next { s with
          annotations := s.annotations ++ anns
          statuses := s.statuses ++ [st]
          pending := s.pending ++ anns.map (portRecord s.cmdTable st) }

/-- R61: `LOOKUP` completes for every code in every state. Where the table lists the code with a text, and no earlier
pair of that code, it gives the text and KNOWN is 1; where the table lists no pair of that code, it gives `Unhandled`
and KNOWN is 0. Nothing else changes. The table is a list of pairs (log entry 10) and the result is read in the model's
own field `fnResult` (log entry 5). -/
def Obligations.LookupGivesTheEntryOrUnhandled : Prop :=
  ∀ (code : Byte) (s : State),
    (∀ (before after : CmdTable) (text : String),
      s.cmdTable = before ++ (code, text) :: after → (∀ p ∈ before, p.1 ≠ code) →
      tableEntry s.cmdTable code = some text ∧
      exec (.lookup code) s = .next { s with fnResult := some (.text text true) }) ∧
    ((∀ p ∈ s.cmdTable, p.1 ≠ code) →
      tableEntry s.cmdTable code = none ∧
      exec (.lookup code) s = .next { s with fnResult := some (.text "Unhandled" false) })

/-- R88: `CSUM8` completes for every sequence of bytes in every state and gives the sum of the bytes as natural
numbers, modulo 256; nothing else changes. The result is read in `fnResult` (log entry 5). -/
def Obligations.Csum8IsTheSumModulo256 : Prop :=
  ∀ (bs : List Byte) (s : State),
    ∃ v : Byte,
      v.toNat = (bs.map BitVec.toNat).sum % 256 ∧
      exec (.csum8 bs) s = .next { s with fnResult := some (.byte v) }

/-- R92: `CRC16` completes for every sequence of bytes in every state and gives the CRC of its pseudocode; nothing
else changes. The result is read in `fnResult` (log entry 5). -/
def Obligations.Crc16FollowsTheProcedure : Prop :=
  let round : Crc → Crc := fun acc => if acc[15] then (acc <<< 1) ^^^ 0x1021#16 else acc <<< 1
  let byte : Crc → Byte → Crc := fun acc b => round^[8] (acc ^^^ (b.setWidth 16 <<< 8))
  ∀ (bs : List Byte) (s : State),
    exec (.crc16 bs) s = .next { s with fnResult := some (.word (bs.foldl byte 0x0000#16)) }

/-! ## The checksum functions -/

/-- R90 laws 1 to 3 (law 3 is the spec's own inference): the empty sum, the order, the concatenation. -/
def Obligations.Csum8Laws : Prop :=
  csum8 [] = 0 ∧
  (∀ a b : List Byte, a.Perm b → csum8 a = csum8 b) ∧
  (∀ a b : List Byte, csum8 (a ++ b) = csum8 a + csum8 b)

/-- R91 (the spec's own inference): the last byte that makes a packet valid is that of the formula, and no other. -/
def Obligations.ValidChecksumByteIsUnique : Prop :=
  ∀ (h : List Byte) (c : Byte), csum8 (h ++ [c]) = 0 ↔ c = validByte h

/-- R93 (the spec's own inference): masking the CRC's accumulator once at the very end gives the same result. -/
def Obligations.CrcMaskTimeDoesNotMatter : Prop :=
  ∀ bs : List Byte, (crc16 bs).toNat = crcLateMask bs

/-- R94 law 1 (the spec's own inference): CRC16 is linear over exclusive-or for inputs of one length. -/
def Obligations.CrcIsLinear : Prop :=
  ∀ a b : List Byte, a.length = b.length →
    crc16 (List.zipWith (fun x y => x ^^^ y) a b) = crc16 a ^^^ crc16 b

/-- R94 law 2 (the spec's own inference): an input followed by its own CRC, high byte first, has CRC 0; and R92's
corner case, leading zero bytes are invisible. -/
def Obligations.CrcOfOwnCrcIsZero : Prop :=
  (∀ bs : List Byte,
    crc16 (bs ++ [(crc16 bs).extractLsb' 8 8, (crc16 bs).extractLsb' 0 8]) = 0) ∧
  (∀ bs : List Byte, crc16 (0x00#8 :: bs) = crc16 bs)

/-! ## Records and labels -/

/-- R53: the label text of a header-field record. -/
def Obligations.HeaderLabelTexts : Prop :=
  ∀ (fmt : Byte → String → String) (ss es : Offset) (v : Byte),
    labelText fmt { ss := ss, es := es, cls := .destination, label := .field v } = "dst: " ++ Nat.repr v.toNat ∧
    labelText fmt { ss := ss, es := es, cls := .length, label := .field v } = "len: " ++ Nat.repr v.toNat ∧
    labelText fmt { ss := ss, es := es, cls := .source, label := .field v } = "src: " ++ Nat.repr v.toNat ∧
    labelText fmt { ss := ss, es := es, cls := .commandHeader, label := .field v } = "cmd: " ++ Nat.repr v.toNat

/-- R55: the port encoding of every record a packet gives (its offsets as they are, where they
fit the port's 64 bits), and the label text recovered from it and the table alone. -/
def Obligations.PortRecordLosesNoLabel : Prop :=
  ∀ (fmt : Byte → String → String) (table : CmdTable) (buf : List Entry) (anns : List Annotation),
    packetAnnotations table buf = some anns →
    ∀ a ∈ anns,
      (a.ss < 2 ^ 64 → (annPort table a).ss.toNat = a.ss) ∧ (a.es < 2 ^ 64 → (annPort table a).es.toNat = a.es) ∧
      recoverText fmt table (annPort table a) = some (labelText fmt a) ∧
      ((∃ v, a.label = .field v ∧ (annPort table a).cls.toNat ≤ 3 ∧ (annPort table a).value = v ∧
          (annPort table a).known = false) ∨
        (∃ c, a.label = .summary c (lookupText table c) ∧ (annPort table a).cls = 6 ∧ (annPort table a).value = c ∧
          (annPort table a).known = (tableEntry table c).isSome))

/-- R84 and R56: a completing step emits exactly five annotation records in class order and one status record, whose
sum is that of all the packet's bytes and whose `ok` is 1 exactly when it is 0; every other step emits none. -/
def Obligations.OutputsOfEachStep : Prop :=
  ∀ (s t : State) (rst : Bool) (e : InEvent), s.FramerInv → transact rst e s = .next t →
    (rst = false → e.kind = .data → s.subcase = some .last →
      let c := csum8 (s.buf.map (fun x => x.value) ++ [e.ev.value])
      (∃ anns : List Annotation, t.annotations = s.annotations ++ anns ∧
        anns.map (fun a => classIndex a.cls) = [0, 1, 2, 3, 6]) ∧
      t.statuses = s.statuses ++ [{ csum := c, ok := decide (c = 0) }]) ∧
    (rst = true ∨ e.kind = .other ∨ s.subcase ≠ some .last →
      t.annotations = s.annotations ∧ t.statuses = s.statuses)

/-- R101: on a checksum mismatch the annotation records, and the records queued at the annotation port, are those of the
packet with any other checksum byte, the state drains to EMPTY as it does there, and the status record carries `ok = 0`
and the sum that is not 0. Nothing but the status records differs. -/
def Obligations.ChecksumMismatchIsOnlyReported : Prop :=
  ∀ (s : State) (ev : Event) (c : Byte), s.FramerInv → s.subcase = some .last →
    let sum := csum8 (s.buf.map (fun x => x.value) ++ [ev.value])
    sum ≠ 0 →
    ∃ t u : State,
      exec (.acceptLast ev) s = .next t ∧
      exec (.acceptLast { ev with value := c }) s = .next u ∧
      t.annotations = u.annotations ∧ t.isEmpty ∧ u.isEmpty ∧
      t.pending.map (fun r => r.ann) = u.pending.map (fun r => r.ann) ∧
      { t with statuses := u.statuses, pending := u.pending } = u ∧
      t.statuses = s.statuses ++ [{ csum := sum, ok := false }]

/-- R64: a packet whose command has no entry in the table is framed, checked and annotated like one whose command has
one; only the description in the summary label and `an_known` differ. -/
def Obligations.UnknownCommandIsNoError : Prop :=
  ∀ (s : State) (ev : Event) (table : CmdTable), s.FramerInv → s.subcase = some .last →
    ∃ t u : State,
      exec (.acceptLast ev) s = .next t ∧
      exec (.acceptLast ev) { s with cmdTable := table } = .next u ∧
      t.buf = u.buf ∧ t.expectedLength = u.expectedLength ∧ t.statuses = u.statuses ∧
      t.annotations.map (fun a => (a.ss, a.es, a.cls, labelValue a.label)) =
        u.annotations.map (fun a => (a.ss, a.es, a.cls, labelValue a.label)) ∧
      t.annotations.dropLast = u.annotations.dropLast ∧
      t.pending.map (fun r => { r with ann := { r.ann with known := false } }) =
        u.pending.map (fun r => { r with ann := { r.ann with known := false } })

/-- R97's E4 and E5: in a completing step the condition `ChecksumMismatch` holds exactly when the status record says
`ok = 0`, and `UnknownCommand` exactly when the summary record says `an_known = 0`. -/
def Obligations.ConditionsAreWhatIsRecorded : Prop :=
  ∀ (s : State) (ev : Event) (prev : Option Event), s.FramerInv → s.subcase = some .last →
    ∃ (t : State) (st : Status) (r : PortRecord),
      exec (.acceptLast ev) s = .next t ∧
      t.statuses = s.statuses ++ [st] ∧ t.pending.getLast? = some r ∧ r.ann.cls = 6 ∧
      Condition.checksumMismatch.meets prev { kind := .data, ev := ev } s = !st.ok ∧
      Condition.unknownCommand.meets prev { kind := .data, ev := ev } s = !r.ann.known

/-! ## Frames -/

/-- R29: whatever an operation does, the buffer after it is the buffer before it, or that with the operation's own
event appended, or empty; every cell below `count` reads as before unless the buffer was emptied. -/
def Obligations.BufferIsOnlyAppendedToOrEmptied : Prop :=
  ∀ (i : Instr) (s t : State), exec i s = .next t →
    (t.buf = s.buf ∨ t.buf = [] ∨
      ∃ ev, eventOf i = some ev ∧ t.buf = s.buf ++ [{ value := ev.value, ss := ev.ss, es := ev.es }]) ∧
    (t.buf ≠ [] → ∀ k, k < s.count → t.buf[k]? = s.buf[k]?)

/-- The frame of the ACCEPT operations that buffer a byte: nothing but the buffer, and the length in `ACCEPT.LEN`,
changes, and every cell outside the one at `count` reads as before. -/
def Obligations.FrameOfTheBufferingOperations : Prop :=
  ∀ (ev : Event) (i : Instr) (s t : State),
    i = .acceptDst ev ∨ i = .acceptLen ev ∨ i = .acceptBody ev → exec i s = .next t →
    t = { s with buf := t.buf, expectedLength := t.expectedLength } ∧
    (i = .acceptLen ev ∨ t.expectedLength = s.expectedLength) ∧
    t.count = s.count + 1 ∧ ∀ k, k ≠ s.count → t.buf[k]? = s.buf[k]?

/-- The frame of the function rows and of `INTERPRET`: no function changes anything but `fnResult`, and interpretation
changes only the outputs; the buffer, the length and the static parameters stay. -/
def Obligations.FrameOfTheFunctionRows : Prop :=
  ∀ (i : Instr) (s t : State), encode i = none → exec i s = .next t →
    t.buf = s.buf ∧ t.expectedLength = s.expectedLength ∧ t.csumMode = s.csumMode ∧ t.cmdTable = s.cmdTable ∧
    t.transferred = s.transferred ∧ t.edges = s.edges ∧ t.edgeCount = s.edgeCount ∧
    (i = .interpret ∨ (t.annotations = s.annotations ∧ t.statuses = s.statuses ∧ t.pending = s.pending)) ∧
    (i ≠ .interpret ∨ t.fnResult = s.fnResult)

/-- R17, R18: no operation and no step writes the static parameters. -/
def Obligations.StaticParametersAreNeverWritten : Prop :=
  (∀ (i : Instr) (s t : State), exec i s = .next t → t.cmdTable = s.cmdTable ∧ t.csumMode = s.csumMode) ∧
  (∀ s t : State, step s = .next t → t.cmdTable = s.cmdTable ∧ t.csumMode = s.csumMode)

/-- R62: `LOOKUP` is a function of the code and of the table alone: in any two states with the same table two calls
with the same code give the same, and so do calls before and after any other operation. -/
def Obligations.LookupIsPure : Prop :=
  (∀ (code : Byte) (s t : State), s.cmdTable = t.cmdTable →
    ∃ u v : State,
      exec (.lookup code) s = .next u ∧ exec (.lookup code) t = .next v ∧ u.fnResult = v.fnResult) ∧
  (∀ (i : Instr) (code : Byte) (s t : State), exec i s = .next t →
    ∃ u v : State,
      exec (.lookup code) s = .next u ∧ exec (.lookup code) t = .next v ∧ u.fnResult = v.fnResult)

/-! ## The machine -/

/-- R27: after reset, whatever the static table, and after `RESET` in any state, the framer is EMPTY, ready for an
event, and presents nothing; the static parameters are unaffected by `RESET`. -/
def Obligations.ResetValues : Prop :=
  let asReset : State → Prop := fun s =>
    s.buf = [] ∧ s.count = 0 ∧ s.expectedLength = 0 ∧ s.stored = some .empty ∧
    s.evReady = true ∧ s.anValid = false ∧ s.pkValid = false
  (∃ table : CmdTable, State.reset = State.resetWith table) ∧
  (∀ table : CmdTable, asReset (State.resetWith table) ∧ (State.resetWith table).cmdTable = table) ∧
  (∀ s : State, ∃ t, exec .reset s = .next t ∧ asReset t ∧ t.cmdTable = s.cmdTable ∧ t.csumMode = s.csumMode)

/-- The state after reset meets the invariant, whatever the static table. -/
def Obligations.ResetMeetsTheInvariant : Prop :=
  ∀ table : CmdTable, (State.resetWith table).Inv

/-- R14 and R125: every step keeps the invariant, from every state that meets it. The invariant holds, beside R14, that
while records are left to take the framer holds the whole packet they belong to (R125), and that they are the end of
that packet's five. -/
def Obligations.StepKeepsTheInvariant : Prop :=
  ∀ s t : State, s.Inv → step s = .next t → t.Inv

/-- R9, R103: from every state that meets the invariant every step answers a next state, whatever the host drives. -/
def Obligations.StepNeverStops : Prop :=
  ∀ s : State, s.Inv → ∃ t, step s = .next t

/-- R9: the transaction step is total on the states that meet R14, whatever the event and whether or not it meets the
host's contract, and it keeps R14. -/
def Obligations.TransactIsTotal : Prop :=
  ∀ (s : State) (rst : Bool) (e : InEvent), s.FramerInv → ∃ t, transact rst e s = .next t ∧ t.FramerInv

/-- R32 and R14 item 4 (the spec's own inference): between transaction steps at most 259 bytes are buffered and the
length is 0 or 5 to 260; on the clock at most 260 bytes, 260 only while a packet's records are presented; and every
operation that completes keeps the buffer within its 260 cells. -/
def Obligations.BufferIsBounded : Prop :=
  (∀ s : State, s.FramerInv →
    s.count ≤ 259 ∧ (s.expectedLength = 0 ∨ (5 ≤ s.expectedLength.toNat ∧ s.expectedLength.toNat ≤ 260)) ∧
    Memory.wf s.buf = true) ∧
  (∀ s : State, s.Inv → Memory.wf s.buf = true ∧ (s.evReady = true → s.count ≤ 259)) ∧
  (∀ (i : Instr) (s t : State), Memory.wf s.buf = true → exec i s = .next t → Memory.wf t.buf = true)

/-- R72: the transition table of the three stored states, with the outputs of each row. -/
def Obligations.StoredStateTransitions : Prop :=
  ∀ (s : State) (rst : Bool) (e : InEvent), s.FramerInv →
    ∃ t, transact rst e s = .next t ∧
      (rst = true → t.stored = some .empty ∧ t.annotations = s.annotations ∧ t.statuses = s.statuses) ∧
      (rst = false → e.kind = .other →
        t.stored = s.stored ∧ t.annotations = s.annotations ∧ t.statuses = s.statuses) ∧
      (rst = false → e.kind = .data →
        (s.stored = some .empty →
          t.stored = some .lenPending ∧ t.annotations = s.annotations ∧ t.statuses = s.statuses) ∧
        (s.stored = some .lenPending →
          t.stored = some .accumulating ∧ t.expectedLength.toNat = e.ev.value.toNat + 5 ∧ t.count = 2 ∧
          t.annotations = s.annotations ∧ t.statuses = s.statuses) ∧
        (s.stored = some .accumulating → s.count + 1 < s.expectedLength.toNat →
          t.stored = some .accumulating ∧ t.count = s.count + 1 ∧
          t.annotations = s.annotations ∧ t.statuses = s.statuses) ∧
        (s.stored = some .accumulating → s.count + 1 = s.expectedLength.toNat →
          t.stored = some .empty ∧ t.annotations.length = s.annotations.length + 5 ∧
          t.statuses.length = s.statuses.length + 1))

/-- A step runs the decoded operation: when the next edge acts (a reset, or an event valid while the framer is ready)
and its wires decode to an operation, the operation is well formed and the step is that operation on the state in which
the edge has been taken from the host's list and counted and the receiver has taken the presented record if it was
ready. What the clock adds is that a packet the operation completed stays in the buffer until its records are taken
(R125). On a reset edge the presented record counts as taken if the receiver was ready (log entry 14, DEDUCED). -/
def Obligations.StepRunsTheDecodedOperation : Prop :=
  ∀ (s : State) (e : Edge) (rest : List Edge) (i : Instr),
    s.csumMode = .csum8 → s.edges = e :: rest → e.acts s.evReady = true → decode s.subcase e.word = .ok i →
    let u := takeRecord e { s with edges := rest, edgeCount := s.edgeCount + 1 }
    i.wellFormed = true ∧
    ((∀ ev, i ≠ .acceptLast ev) → step s = exec i u) ∧
    (∀ ev, i = .acceptLast ev →
      step s =
        match exec i u with
        | .next v =>
          .next { v with
            buf := u.buf ++ [{ value := ev.value, ss := ev.ss, es := ev.es }]
            expectedLength := u.expectedLength }
        | .fault r => .fault r
        | .refused r => .refused r)

/-- With no edge driven the step leaves the state as it is (R112, R119; that it does is the model's choice, log entry 2). -/
def Obligations.IdleStepHoldsTheState : Prop :=
  ∀ s : State, s.csumMode = .csum8 → s.edges = [] → step s = .next s

/-- R124: `ev_ready` is 1 exactly while no record is left; an edge with `rst = 0` delivers an event exactly when
`ev_valid` and `ev_ready` are 1, and the step is then that of the event (a completed packet stays in the buffer while
its records are presented, R125); and after a delivery that completes no packet `ev_ready` is still 1. -/
def Obligations.InputHandshake : Prop :=
  (∀ s : State, s.evReady = true ↔ s.pending = []) ∧
  (∀ (s : State) (e : Edge) (rest : List Edge), s.csumMode = .csum8 → s.edges = e :: rest → e.rst = false →
    let u := takeRecord e { s with edges := rest, edgeCount := s.edgeCount + 1 }
    (e.evValid = true ∧ s.evReady = true →
      (e.word.kind = .other ∨ s.subcase ≠ some .last → step s = transact false e.word.inEvent u) ∧
      (∀ v, e.word.kind = .data → s.subcase = some .last → transact false e.word.inEvent u = .next v →
        step s =
          .next { v with
            buf := u.buf ++ [{ value := e.word.event.value, ss := e.word.event.ss, es := e.word.event.es }]
            expectedLength := u.expectedLength })) ∧
    (e.evValid = false ∨ s.evReady = false → step s = .next u)) ∧
  (∀ (s t : State) (e : Edge) (rest : List Edge), s.Inv → s.edges = e :: rest → e.rst = false →
    s.evReady = true → (e.word.kind = .other ∨ s.subcase ≠ some .last) → step s = .next t → t.evReady = true)

/-- R24, R125: while a record is presented, an edge with `rst = 0` takes it exactly when `an_ready` is 1, delivers no
event, drains the buffer exactly when the record taken is the last, and changes nothing else. -/
def Obligations.EmissionEdge : Prop :=
  ∀ (s : State) (e : Edge) (rest : List Edge) (r : PortRecord) (left : List PortRecord),
    s.csumMode = .csum8 → s.edges = e :: rest → e.rst = false → s.pending = r :: left →
    step s =
      .next { s with
        edges := rest
        edgeCount := s.edgeCount + 1
        pending := if e.anReady then left else r :: left
        transferred := if e.anReady then s.transferred ++ [r] else s.transferred
        buf := if e.anReady ∧ left = [] then [] else s.buf
        expectedLength := if e.anReady ∧ left = [] then 0 else s.expectedLength }

/-- R125: on the edge that delivers the completing byte the framer lowers `ev_ready` and presents the packet's five
records; of five edges with `an_ready = 1` each takes one, in the order of their classes, the status beside the fifth
and no other; until the fifth is taken the whole packet stays in the buffer and `ev_ready` stays 0; with the fifth the
buffer is drained and `ev_ready` rises, and the framer is where the transaction step of that byte leaves it. -/
def Obligations.EmissionSequence : Prop :=
  ∀ (s : State) (e e1 e2 e3 e4 e5 : Edge) (rest : List Edge),
    s.Inv → s.pending = [] → s.subcase = some .last → s.edges = [e, e1, e2, e3, e4, e5] ++ rest →
    e.rst = false → e.evValid = true → e.word.kind = .data →
    (∀ x ∈ [e1, e2, e3, e4, e5], x.rst = false ∧ x.anReady = true) →
    ∃ (u t v : State) (rs : List PortRecord),
      step s = .next u ∧ u.transferred = s.transferred ∧
      rs.map (fun r => r.ann.cls) = [0, 1, 2, 3, 6] ∧
      rs.map (fun r => r.status.isSome) = [false, false, false, false, true] ∧
      (∀ k, k < 5 → ∃ w, Host.Core.run Sys2Proof.core k u = .next w ∧
        w.evReady = false ∧ w.pending = rs.drop k ∧ w.transferred = s.transferred ++ rs.take k ∧
        w.buf = s.buf ++ [{ value := e.word.event.value, ss := e.word.event.ss, es := e.word.event.es }] ∧
        w.expectedLength = s.expectedLength) ∧
      Host.Core.run Sys2Proof.core 5 u = .next t ∧
      t.evReady = true ∧ t.isEmpty ∧
      transact false e.word.inEvent s = .next v ∧
      t = { v with
        pending := []
        transferred := s.transferred ++ rs
        edges := rest
        edgeCount := s.edgeCount + 6 }

/-- R25: `pk_valid` is 1 exactly while `an_valid` is 1 and `an_cls` is 6, and then the status pins carry the status
record beside that record. -/
def Obligations.StatusAccompaniesTheSummary : Prop :=
  ∀ s : State, s.Inv →
    (s.outPins.pkValid = true ↔ s.outPins.anValid = true ∧ s.outPins.anCls = 6) ∧
    (s.outPins.pkValid = true →
      ∃ (r : PortRecord) (left : List PortRecord) (st : Status),
        s.pending = r :: left ∧ r.status = some st ∧ s.outPins.pkCsum = st.csum ∧ s.outPins.pkOk = st.ok)

/-- R126: an edge with `rst = 1` resets the framer whatever the handshake signals are, abandons the records not yet
taken, lowers the valid signals, raises `ev_ready`, and delivers no event. -/
def Obligations.ResetEdge : Prop :=
  ∀ (s : State) (e : Edge) (rest : List Edge), s.csumMode = .csum8 → s.edges = e :: rest → e.rst = true →
    ∃ t, step s = .next t ∧ t.buf = [] ∧ t.expectedLength = 0 ∧ t.pending = [] ∧ t.evReady = true ∧
      t.anValid = false ∧ t.pkValid = false ∧ t.annotations = s.annotations ∧ t.statuses = s.statuses ∧
      t.edges = rest

/-- R24, R55, R125: no step without a reset loses a record: what has been taken and what is left to take grow by exactly
the port encodings of the annotation records the step emits, with its status records among them. -/
def Obligations.NoRecordIsLostAtThePort : Prop :=
  ∀ s t : State, s.Inv → (∀ e ∈ s.edges.head?, e.rst = false) → step s = .next t →
    ∃ (anns : List Annotation) (rs : List PortRecord),
      t.annotations = s.annotations ++ anns ∧
      t.transferred ++ t.pending = s.transferred ++ s.pending ++ rs ∧
      rs.map (fun r => r.ann) = anns.map (annPort s.cmdTable) ∧
      t.statuses = s.statuses ++ rs.filterMap (fun r => r.status)

/-! ## Streams -/

/-- R121: nothing is emitted for a packet before its last byte: fewer than `N + 5` data events from EMPTY are buffered
and give no output, and exactly `N + 5` give the packet's records. -/
def Obligations.NothingIsEmittedBeforeTheLastByte : Prop :=
  ∀ (s : State) (evs : List Event), s.csumMode = .csum8 → s.isEmpty →
    ((∀ l, evs[1]? = some l → evs.length < l.value.toNat + 5) →
      ∃ t, feed evs s = .next t ∧ t.annotations = s.annotations ∧ t.statuses = s.statuses ∧ t.pending = s.pending ∧
        t.buf = evs.map (fun ev => { value := ev.value, ss := ev.ss, es := ev.es })) ∧
    (∀ l, evs[1]? = some l → evs.length = l.value.toNat + 5 →
      ∃ t, feed evs s = .next t ∧ t.annotations.length = s.annotations.length + 5 ∧
        t.statuses.length = s.statuses.length + 1)

/-- R75: the `N + 5` data events of a packet, delivered from EMPTY, lead to a state that differs from the one before
only by the packet's records, and these depend on its events and on the table alone. -/
def Obligations.PacketReturnsToEmpty : Prop :=
  ∀ (s : State) (evs : List Event) (l : Event), s.csumMode = .csum8 → s.isEmpty →
    evs[1]? = some l → evs.length = l.value.toNat + 5 →
    feed evs s =
      .next { s with
        annotations := s.annotations ++ eventAnnotations s.cmdTable evs
        statuses := s.statuses ++ [eventStatus evs]
        pending := s.pending ++ eventPortRecords s.cmdTable evs }

/-- R73 (the spec's own inference): over any stream of data events from EMPTY, the packets interpreted are those of the
greedy cut, each once and in order, and what is left over is what is buffered. -/
def Obligations.StreamIsCutGreedily : Prop :=
  ∀ (s : State) (evs : List Event), s.csumMode = .csum8 → s.isEmpty →
    feed evs s =
      .next { s with
        buf := (cutPackets evs).2.map entryOf
        expectedLength :=
          match (cutPackets evs).2[1]? with
          | some l => totalLength l.value
          | none => 0
        annotations := s.annotations ++ (cutPackets evs).1.flatMap (eventAnnotations s.cmdTable)
        statuses := s.statuses ++ (cutPackets evs).1.map eventStatus
        pending := s.pending ++ (cutPackets evs).1.flatMap (eventPortRecords s.cmdTable) }

/-- R122 (the spec's own inference): a non-data event anywhere in a sequence of deliveries changes nothing. -/
def Obligations.NonDataEventsAreTransparent : Prop :=
  ∀ (s : State) (before after : List Delivery) (ev : Event),
    transactAll (before ++ { rst := false, event := { kind := .other, ev := ev } } :: after) s =
      transactAll (before ++ after) s

/-- R118 (the spec's own inference): if the data events meet the host's contract on offsets, every record emitted from
EMPTY has `ss <= es`, each packet's records lie within its summary's span, and the records of a later packet are not
before those of an earlier one. -/
def Obligations.ContractOrdersTheRecords : Prop :=
  ∀ (s t : State) (evs : List Event), s.csumMode = .csum8 → s.isEmpty → s.annotations = [] → hostContract evs →
    feed evs s = .next t →
    (∀ a ∈ t.annotations, a.ss ≤ a.es) ∧
    (∀ (i j : Nat) (a b : Annotation), t.annotations[i]? = some a → t.annotations[j]? = some b → i / 5 < j / 5 →
      a.ss ≤ b.ss ∧ a.es ≤ b.es) ∧
    (∀ (i : Nat) (a m : Annotation), t.annotations[i]? = some a → t.annotations[i / 5 * 5 + 4]? = some m →
      m.ss ≤ a.ss ∧ a.es ≤ m.es)

/-- R20, R96 (the spec's own inferences): the implementation with a running sum and four header entries cannot be told
from the framer. After reset the two correspond, and from every state that meets R14 every step, of a reset, of a
non-data event or of a data event, takes both to corresponding states with the same output. -/
def Obligations.CompactImplementationRefines : Prop :=
  (∀ table : CmdTable, compactOf (State.resetWith table) = Compact.empty) ∧
  (∀ (s : State) (rst : Bool) (e : InEvent), s.FramerInv →
    ∃ t, transact rst e s = .next t ∧ t.FramerInv ∧
      compactOf t = (Compact.step s.cmdTable rst e (compactOf s)).1 ∧
      t.annotations = s.annotations ++ (Compact.step s.cmdTable rst e (compactOf s)).2.annotations ∧
      t.statuses = s.statuses ++ (Compact.step s.cmdTable rst e (compactOf s)).2.statuses) ∧
  (∀ (s : State) (table : CmdTable) (c : Compact) (e : InEvent),
    (Compact.step table true e c).1 = Compact.empty ∧
    ∃ t, transact true e s = .next t ∧ compactOf t = Compact.empty) ∧
  (∀ (s : State) (table : CmdTable) (c : Compact) (ev : Event),
    (Compact.step table false { kind := .other, ev := ev } c).1 = c ∧
    transact false { kind := .other, ev := ev } s = .next s)

/-- R43, R110: a step of one framer leaves the shared Command Table and every other framer as they are, it is the step
the framer makes alone over that table, and steps of two framers give the same in either order. (That framers are
separate states over one table, which a step could write, is the model's form: log entry 20, DEDUCED.) -/
def Obligations.FramersShareNothing : Prop :=
  (∀ (k : Nat) (sys after : System), stepAt k sys = some after →
    after.table = sys.table ∧
    (∀ j, j ≠ k → after.framers[j]? = sys.framers[j]?) ∧
    ∃ s t, sys.framers[k]? = some s ∧ step { s with cmdTable := sys.table } = .next t ∧
      after.framers[k]? = some t ∧ t.cmdTable = sys.table) ∧
  (∀ (k j : Nat) (sys : System), j ≠ k →
    (stepAt k sys).bind (stepAt j) = (stepAt j sys).bind (stepAt k)) ∧
  (∀ (k : Nat) (sys : System) (s : State),
    sys.framers[k]? = some s → ({ s with cmdTable := sys.table } : State).Inv → ∃ after, stepAt k sys = some after)

/-! ## The stimulus script -/

/-- R58: the selector a script line is given is that of the delivery it stands for. -/
def Obligations.ScriptLinesSelect : Prop :=
  ∀ l : Line,
    (l = .rst → l.sel = 0x400#11 ∧ l.delivery.rst = true) ∧
    (l ≠ .rst → l.delivery.rst = false ∧ l.sel = selector false (ecw l.delivery.event.kind l.delivery.event.ev))

/-- R59, R91: every packet that `MKPKT` writes passes the check, has the length its second byte says, and is delivered
from EMPTY with exactly one status record, whose `ok` is 1. -/
def Obligations.MadePacketsPass : Prop :=
  ∀ (s : State) (dst src cmd : Byte) (data : List Byte) (t w p : Nat) (ls : List Line),
    s.csumMode = .csum8 → s.isEmpty → mkpkt dst src cmd data t w p = some ls →
    ls.length = data.length + 5 ∧
    ∃ u, runScript ls s = .next u ∧ u.isEmpty ∧ u.statuses = s.statuses ++ [{ csum := 0, ok := true }]

/-! ## Where the model stops -/

/-- U6, R87: the configuration `CSUM_MODE = CRC16` is refused by every step, and by the operations that would apply it
(which operations refuse it is the model's choice, log entry 9). -/
def Obligations.Crc16ConfigurationIsRefused : Prop :=
  ∀ (s : State) (ev : Event), s.csumMode = .crc16 →
    step s = .refused .csumModeCrc16 ∧
    exec (.acceptDst ev) s = .refused .csumModeCrc16 ∧ exec (.acceptLen ev) s = .refused .csumModeCrc16 ∧
    exec (.acceptBody ev) s = .refused .csumModeCrc16 ∧ exec (.acceptLast ev) s = .refused .csumModeCrc16 ∧
    exec .interpret s = .refused .csumModeCrc16

/-- Where the operations have no meaning (the model's choices, log entries 6, 8 and 12): an ACCEPT operation outside its
sub-case, INTERPRET and `ACCEPT.LAST` without a whole packet, and an append outside the 260 cells. -/
def Obligations.StopsOutsideTheConditions : Prop :=
  ∀ (s : State) (ev : Event) (i : Instr) (p : Subcase), s.csumMode = .csum8 →
    (i = acceptInstr p ev → s.subcase ≠ some p → exec i s = .refused .subcaseNotSelected) ∧
    (i = acceptInstr p ev → s.subcase = some p → 260 ≤ s.count → exec i s = .fault (.bufferIndex s.count)) ∧
    (s.subcase = some .last → s.count < 4 → exec (.acceptLast ev) s = .refused .packetIncomplete) ∧
    (s.count ≠ s.expectedLength.toNat ∨ s.count < 5 → exec .interpret s = .refused .packetIncomplete)
end

