-- ==== Sys2Proof/Laws/Decode.lean ====
section
/-! SUPPORT. Small lemmas of well-formedness and selection. -/

namespace Sys2Proof

/-- An event is well formed exactly when both its offsets fit 64 bits (R46). -/
theorem Event.wellFormed_iff (ev : Event) : ev.wellFormed = true ↔ ev.ss < 2 ^ 64 ∧ ev.es < 2 ^ 64 := by
  unfold Event.wellFormed
  rw [Bool.and_eq_true, decide_eq_true_eq, decide_eq_true_eq]
  exact Iff.rfl

/-- The event on any wires is well formed (R23). -/
theorem EventWord.event_wellFormed (w : EventWord) : w.event.wellFormed = true :=
  (Event.wellFormed_iff _).mpr ⟨w.ss.isLt, w.es.isLt⟩

/-- A reset is selected whatever the event (R65). -/
@[simp] theorem select_reset (p : Option Subcase) (e : InEvent) : select p true e = .ok .reset := rfl

/-- A non-data event selects `IGNORE` (R65). -/
@[simp] theorem select_other (p : Option Subcase) (ev : Event) :
    select p false { kind := .other, ev := ev } = .ok (.ignore ev) := rfl

/-- A data event selects the operation of the sub-case the state gives (R47). -/
@[simp] theorem select_data (q : Subcase) (ev : Event) :
    select (some q) false { kind := .data, ev := ev } = .ok (acceptInstr q ev) := rfl

/-- A data event selects nothing where the state gives no sub-case. -/
@[simp] theorem select_data_none (ev : Event) :
    select none false { kind := .data, ev := ev } = .error .noSubcase := rfl

end Sys2Proof
end

