-- ==== Sys2Proof/Laws/State.lean ====
section
/-! SUPPORT. One lemma for each field of the state under each named update, true by definition. -/

namespace Sys2Proof.Machine

/-! Fields after `appendEntry`. -/

@[simp] theorem appendEntry_buf (e : Entry) (s : State) : (appendEntry e s).buf = s.buf ++ [e] := rfl

@[simp] theorem appendEntry_expectedLength (e : Entry) (s : State) : (appendEntry e s).expectedLength = s.expectedLength := rfl

@[simp] theorem appendEntry_csumMode (e : Entry) (s : State) : (appendEntry e s).csumMode = s.csumMode := rfl

@[simp] theorem appendEntry_cmdTable (e : Entry) (s : State) : (appendEntry e s).cmdTable = s.cmdTable := rfl

@[simp] theorem appendEntry_pending (e : Entry) (s : State) : (appendEntry e s).pending = s.pending := rfl

@[simp] theorem appendEntry_annotations (e : Entry) (s : State) : (appendEntry e s).annotations = s.annotations := rfl

@[simp] theorem appendEntry_statuses (e : Entry) (s : State) : (appendEntry e s).statuses = s.statuses := rfl

@[simp] theorem appendEntry_transferred (e : Entry) (s : State) : (appendEntry e s).transferred = s.transferred := rfl

@[simp] theorem appendEntry_fnResult (e : Entry) (s : State) : (appendEntry e s).fnResult = s.fnResult := rfl

@[simp] theorem appendEntry_edges (e : Entry) (s : State) : (appendEntry e s).edges = s.edges := rfl

@[simp] theorem appendEntry_edgeCount (e : Entry) (s : State) : (appendEntry e s).edgeCount = s.edgeCount := rfl

/-! Fields after `setLength`. -/

@[simp] theorem setLength_buf (v : Byte) (s : State) : (setLength v s).buf = s.buf := rfl

@[simp] theorem setLength_expectedLength (v : Byte) (s : State) : (setLength v s).expectedLength = totalLength v := rfl

@[simp] theorem setLength_csumMode (v : Byte) (s : State) : (setLength v s).csumMode = s.csumMode := rfl

@[simp] theorem setLength_cmdTable (v : Byte) (s : State) : (setLength v s).cmdTable = s.cmdTable := rfl

@[simp] theorem setLength_pending (v : Byte) (s : State) : (setLength v s).pending = s.pending := rfl

@[simp] theorem setLength_annotations (v : Byte) (s : State) : (setLength v s).annotations = s.annotations := rfl

@[simp] theorem setLength_statuses (v : Byte) (s : State) : (setLength v s).statuses = s.statuses := rfl

@[simp] theorem setLength_transferred (v : Byte) (s : State) : (setLength v s).transferred = s.transferred := rfl

@[simp] theorem setLength_fnResult (v : Byte) (s : State) : (setLength v s).fnResult = s.fnResult := rfl

@[simp] theorem setLength_edges (v : Byte) (s : State) : (setLength v s).edges = s.edges := rfl

@[simp] theorem setLength_edgeCount (v : Byte) (s : State) : (setLength v s).edgeCount = s.edgeCount := rfl

/-! Fields after `drain`. -/

@[simp] theorem drain_buf (s : State) : (drain s).buf = [] := rfl

@[simp] theorem drain_expectedLength (s : State) : (drain s).expectedLength = 0 := rfl

@[simp] theorem drain_csumMode (s : State) : (drain s).csumMode = s.csumMode := rfl

@[simp] theorem drain_cmdTable (s : State) : (drain s).cmdTable = s.cmdTable := rfl

@[simp] theorem drain_pending (s : State) : (drain s).pending = s.pending := rfl

@[simp] theorem drain_annotations (s : State) : (drain s).annotations = s.annotations := rfl

@[simp] theorem drain_statuses (s : State) : (drain s).statuses = s.statuses := rfl

@[simp] theorem drain_transferred (s : State) : (drain s).transferred = s.transferred := rfl

@[simp] theorem drain_fnResult (s : State) : (drain s).fnResult = s.fnResult := rfl

@[simp] theorem drain_edges (s : State) : (drain s).edges = s.edges := rfl

@[simp] theorem drain_edgeCount (s : State) : (drain s).edgeCount = s.edgeCount := rfl

/-! Fields after `resetFramer`. -/

@[simp] theorem resetFramer_buf (s : State) : (resetFramer s).buf = [] := rfl

@[simp] theorem resetFramer_expectedLength (s : State) : (resetFramer s).expectedLength = 0 := rfl

@[simp] theorem resetFramer_csumMode (s : State) : (resetFramer s).csumMode = s.csumMode := rfl

@[simp] theorem resetFramer_cmdTable (s : State) : (resetFramer s).cmdTable = s.cmdTable := rfl

@[simp] theorem resetFramer_pending (s : State) : (resetFramer s).pending = [] := rfl

@[simp] theorem resetFramer_annotations (s : State) : (resetFramer s).annotations = s.annotations := rfl

@[simp] theorem resetFramer_statuses (s : State) : (resetFramer s).statuses = s.statuses := rfl

@[simp] theorem resetFramer_transferred (s : State) : (resetFramer s).transferred = s.transferred := rfl

@[simp] theorem resetFramer_fnResult (s : State) : (resetFramer s).fnResult = s.fnResult := rfl

@[simp] theorem resetFramer_edges (s : State) : (resetFramer s).edges = s.edges := rfl

@[simp] theorem resetFramer_edgeCount (s : State) : (resetFramer s).edgeCount = s.edgeCount := rfl

/-! Fields after `emit`. -/

@[simp] theorem emit_buf (anns : List Annotation) (st : Status) (s : State) : (emit anns st s).buf = s.buf := rfl

@[simp] theorem emit_expectedLength (anns : List Annotation) (st : Status) (s : State) : (emit anns st s).expectedLength = s.expectedLength := rfl

@[simp] theorem emit_csumMode (anns : List Annotation) (st : Status) (s : State) : (emit anns st s).csumMode = s.csumMode := rfl

@[simp] theorem emit_cmdTable (anns : List Annotation) (st : Status) (s : State) : (emit anns st s).cmdTable = s.cmdTable := rfl

@[simp] theorem emit_pending (anns : List Annotation) (st : Status) (s : State) : (emit anns st s).pending = s.pending ++ anns.map (portRecord s.cmdTable st) := rfl

@[simp] theorem emit_annotations (anns : List Annotation) (st : Status) (s : State) : (emit anns st s).annotations = s.annotations ++ anns := rfl

@[simp] theorem emit_statuses (anns : List Annotation) (st : Status) (s : State) : (emit anns st s).statuses = s.statuses ++ [st] := rfl

@[simp] theorem emit_transferred (anns : List Annotation) (st : Status) (s : State) : (emit anns st s).transferred = s.transferred := rfl

@[simp] theorem emit_fnResult (anns : List Annotation) (st : Status) (s : State) : (emit anns st s).fnResult = s.fnResult := rfl

@[simp] theorem emit_edges (anns : List Annotation) (st : Status) (s : State) : (emit anns st s).edges = s.edges := rfl

@[simp] theorem emit_edgeCount (anns : List Annotation) (st : Status) (s : State) : (emit anns st s).edgeCount = s.edgeCount := rfl

/-! Fields after `setResult`. -/

@[simp] theorem setResult_buf (r : FnResult) (s : State) : (setResult r s).buf = s.buf := rfl

@[simp] theorem setResult_expectedLength (r : FnResult) (s : State) : (setResult r s).expectedLength = s.expectedLength := rfl

@[simp] theorem setResult_csumMode (r : FnResult) (s : State) : (setResult r s).csumMode = s.csumMode := rfl

@[simp] theorem setResult_cmdTable (r : FnResult) (s : State) : (setResult r s).cmdTable = s.cmdTable := rfl

@[simp] theorem setResult_pending (r : FnResult) (s : State) : (setResult r s).pending = s.pending := rfl

@[simp] theorem setResult_annotations (r : FnResult) (s : State) : (setResult r s).annotations = s.annotations := rfl

@[simp] theorem setResult_statuses (r : FnResult) (s : State) : (setResult r s).statuses = s.statuses := rfl

@[simp] theorem setResult_transferred (r : FnResult) (s : State) : (setResult r s).transferred = s.transferred := rfl

@[simp] theorem setResult_fnResult (r : FnResult) (s : State) : (setResult r s).fnResult = some r := rfl

@[simp] theorem setResult_edges (r : FnResult) (s : State) : (setResult r s).edges = s.edges := rfl

@[simp] theorem setResult_edgeCount (r : FnResult) (s : State) : (setResult r s).edgeCount = s.edgeCount := rfl

/-! Fields after `takeEdge`. -/

@[simp] theorem takeEdge_buf (rest : List Edge) (s : State) : (takeEdge rest s).buf = s.buf := rfl

@[simp] theorem takeEdge_expectedLength (rest : List Edge) (s : State) : (takeEdge rest s).expectedLength = s.expectedLength := rfl

@[simp] theorem takeEdge_csumMode (rest : List Edge) (s : State) : (takeEdge rest s).csumMode = s.csumMode := rfl

@[simp] theorem takeEdge_cmdTable (rest : List Edge) (s : State) : (takeEdge rest s).cmdTable = s.cmdTable := rfl

@[simp] theorem takeEdge_pending (rest : List Edge) (s : State) : (takeEdge rest s).pending = s.pending := rfl

@[simp] theorem takeEdge_annotations (rest : List Edge) (s : State) : (takeEdge rest s).annotations = s.annotations := rfl

@[simp] theorem takeEdge_statuses (rest : List Edge) (s : State) : (takeEdge rest s).statuses = s.statuses := rfl

@[simp] theorem takeEdge_transferred (rest : List Edge) (s : State) : (takeEdge rest s).transferred = s.transferred := rfl

@[simp] theorem takeEdge_fnResult (rest : List Edge) (s : State) : (takeEdge rest s).fnResult = s.fnResult := rfl

@[simp] theorem takeEdge_edges (rest : List Edge) (s : State) : (takeEdge rest s).edges = rest := rfl

@[simp] theorem takeEdge_edgeCount (rest : List Edge) (s : State) : (takeEdge rest s).edgeCount = s.edgeCount + 1 := rfl

/-! Fields after `transferRecord`. -/

@[simp] theorem transferRecord_buf (r : PortRecord) (rest : List PortRecord) (s : State) : (transferRecord r rest s).buf = s.buf := rfl

@[simp] theorem transferRecord_expectedLength (r : PortRecord) (rest : List PortRecord) (s : State) : (transferRecord r rest s).expectedLength = s.expectedLength := rfl

@[simp] theorem transferRecord_csumMode (r : PortRecord) (rest : List PortRecord) (s : State) : (transferRecord r rest s).csumMode = s.csumMode := rfl

@[simp] theorem transferRecord_cmdTable (r : PortRecord) (rest : List PortRecord) (s : State) : (transferRecord r rest s).cmdTable = s.cmdTable := rfl

@[simp] theorem transferRecord_pending (r : PortRecord) (rest : List PortRecord) (s : State) : (transferRecord r rest s).pending = rest := rfl

@[simp] theorem transferRecord_annotations (r : PortRecord) (rest : List PortRecord) (s : State) : (transferRecord r rest s).annotations = s.annotations := rfl

@[simp] theorem transferRecord_statuses (r : PortRecord) (rest : List PortRecord) (s : State) : (transferRecord r rest s).statuses = s.statuses := rfl

@[simp] theorem transferRecord_transferred (r : PortRecord) (rest : List PortRecord) (s : State) : (transferRecord r rest s).transferred = s.transferred ++ [r] := rfl

@[simp] theorem transferRecord_fnResult (r : PortRecord) (rest : List PortRecord) (s : State) : (transferRecord r rest s).fnResult = s.fnResult := rfl

@[simp] theorem transferRecord_edges (r : PortRecord) (rest : List PortRecord) (s : State) : (transferRecord r rest s).edges = s.edges := rfl

@[simp] theorem transferRecord_edgeCount (r : PortRecord) (rest : List PortRecord) (s : State) : (transferRecord r rest s).edgeCount = s.edgeCount := rfl

end Sys2Proof.Machine
end

