-- ==== Sys2Proof/Laws/Ops.lean ====
section
/-! SUPPORT. For each shared operation, once, everything it can do: when it answers a next state, and which. -/

namespace Sys2Proof.Machine

/-- The append answers a next state exactly when there is a cell for it and what follows answers one (R28, R29). -/
theorem appendThen_next {e : Entry} {s t : State} {k : State → Host.Outcome State Fault Refusal} :
    appendThen e s k = .next t ↔ s.count < Config.bufDepth ∧ k (appendEntry e s) = .next t := by
  unfold appendThen
  split <;> simp_all

/-- A guard on the configuration lets only `CSUM8` through (R87). -/
theorem whenAdmitted_next {s t : State} {k : State → Host.Outcome State Fault Refusal} :
    whenAdmitted s k = .next t ↔ s.csumMode = .csum8 ∧ k s = .next t := by
  unfold whenAdmitted State.admitted
  split <;> simp_all

/-- A guard on the sub-case lets only an admitted configuration and that sub-case through (R47). -/
theorem whenSubcase_next {p : Subcase} {s t : State} {k : State → Host.Outcome State Fault Refusal} :
    whenSubcase p s k = .next t ↔ s.csumMode = .csum8 ∧ s.subcase = some p ∧ k s = .next t := by
  unfold whenSubcase
  rw [whenAdmitted_next]
  split <;> simp_all

/-- A changed outcome answers a next state exactly when the outcome does. -/
theorem mapNext_next {f : State → State} {o : Host.Outcome State Fault Refusal} {t : State} :
    mapNext f o = .next t ↔ ∃ u, o = .next u ∧ t = f u := by
  unfold mapNext
  cases o <;> simp [eq_comm]

/-- A next state is changed. -/
@[simp] theorem mapNext_of_next (f : State → State) (s : State) : mapNext f (.next s) = .next (f s) := rfl

/-- A next state is drained (R86). -/
@[simp] theorem thenDrain_of_next (s : State) : thenDrain (.next s) = .next (drain s) := rfl

/-- A drain after an operation answers a next state exactly when the operation does (R65, R86). -/
theorem thenDrain_next {o : Host.Outcome State Fault Refusal} {t : State} :
    thenDrain o = .next t ↔ ∃ u, o = .next u ∧ t = drain u := mapNext_next

/-- Interpretation answers a next state exactly on a whole packet, and then it only emits (R77). -/
theorem interpretBuffer_next {s t : State} :
    interpretBuffer s = .next t ↔
      s.count = s.expectedLength.toNat ∧
        ∃ anns, packetAnnotations s.cmdTable s.buf = some anns ∧
          t = emit anns (statusOf (values s.buf)) s := by
  unfold interpretBuffer
  by_cases h : s.count = s.expectedLength.toNat
  · simp only [h, if_true, true_and]
    cases packetAnnotations s.cmdTable s.buf <;> simp [eq_comm]
  · simp [h]

/-- A selection that is run answers a next state exactly when it selected an operation that does (R65). -/
theorem runSelected_next {r : Except DecodeRefusal Instr} {s t : State} :
    runSelected r s = .next t ↔ ∃ i, r = .ok i ∧ exec i s = .next t := by
  unfold runSelected
  cases r <;> simp

/-- A selection run on an edge answers a next state exactly when it selected an operation that does; the packet stays
held until its records are taken (R125). -/
theorem runOnEdge_next {r : Except DecodeRefusal Instr} {s t : State} :
    runOnEdge r s = .next t ↔ ∃ i u, r = .ok i ∧ exec i s = .next u ∧ t = holdPacket i s u := by
  unfold runOnEdge
  cases r <;> simp [mapNext_next]

/-- Holding a packet leaves everything but the buffer and the length (R125). -/
theorem holdPacket_frame (i : Instr) (s t : State) :
    holdPacket i s t =
      { t with buf := (holdPacket i s t).buf, expectedLength := (holdPacket i s t).expectedLength } := by
  cases i <;> rfl

/-- With nothing left to take, an edge takes nothing (R24). -/
theorem takeRecord_nil {e : Edge} {s : State} (h : s.pending = []) : takeRecord e s = s := by
  simp [takeRecord, h]

/-- Everything an edge can do to a record that is presented: take it, with the drain if it is the last (R125), or
leave the state as it is. -/
theorem takeRecord_cases (e : Edge) (s : State) :
    takeRecord e s = s ∨
      ∃ r rest, s.pending = r :: rest ∧ e.anReady = true ∧
        ((rest = [] ∧ takeRecord e s = drain (transferRecord r [] s)) ∨
          (rest ≠ [] ∧ takeRecord e s = transferRecord r rest s)) := by
  unfold takeRecord
  split
  · exact .inl rfl
  · rename_i r rest hp
    split
    · rename_i ha
      refine .inr ⟨r, rest, hp, ha, ?_⟩
      cases rest with
      | nil => exact .inl ⟨rfl, rfl⟩
      | cons x xs => exact .inr ⟨List.cons_ne_nil _ _, rfl⟩
    · exact .inl rfl

/-- Taking a record leaves the static parameters, the tapes of what was emitted, and the host's edges. -/
theorem takeRecord_frame (e : Edge) (s : State) :
    (takeRecord e s).csumMode = s.csumMode ∧ (takeRecord e s).cmdTable = s.cmdTable ∧
      (takeRecord e s).annotations = s.annotations ∧ (takeRecord e s).statuses = s.statuses ∧
      (takeRecord e s).edges = s.edges ∧ (takeRecord e s).edgeCount = s.edgeCount := by
  rcases takeRecord_cases e s with h | ⟨r, rest, _, _, ⟨_, h⟩ | ⟨_, h⟩⟩ <;> rw [h] <;> simp

/-- No record is lost in a transfer: taken and left together are what they were (R24). -/
theorem takeRecord_conserves (e : Edge) (s : State) :
    (takeRecord e s).transferred ++ (takeRecord e s).pending = s.transferred ++ s.pending := by
  rcases takeRecord_cases e s with h | ⟨r, rest, hp, _, ⟨hr, h⟩ | ⟨_, h⟩⟩ <;> rw [h]
  · simp [hp, hr]
  · simp [hp]

/-- A buffer that holds at least five entries is interpreted, one that holds fewer is not (R77). -/
theorem packetAnnotations_isSome (table : CmdTable) (buf : List Entry) :
    (packetAnnotations table buf).isSome = decide (5 ≤ buf.length) := by
  unfold packetAnnotations
  split
  · simp
  · rename_i h
    rcases buf with _ | ⟨a, _ | ⟨b, _ | ⟨c, _ | ⟨d, _ | ⟨e, r⟩⟩⟩⟩⟩
    all_goals first
      | exact absurd rfl (h a b c d e r)
      | simp

/-- The sub-case is `dst` exactly when nothing is buffered (R47). -/
theorem subcase_dst {s : State} : s.subcase = some .dst ↔ s.buf = [] := by
  unfold State.subcase State.count
  constructor
  · intro h
    split at h
    · simpa using ‹s.buf.length = 0›
    · split at h
      · simp at h
      · split at h
        · simp at h
        · split at h <;> simp at h
  · intro h
    simp [h]

/-- The sub-case is `len` exactly when one byte is buffered (R47). -/
theorem subcase_len {s : State} : s.subcase = some .len ↔ s.count = 1 := by
  unfold State.subcase
  constructor
  · intro h
    split at h
    · simp at h
    · split at h
      · assumption
      · split at h
        · simp at h
        · split at h <;> simp at h
  · intro h
    simp [h]

/-- The sub-case is `body` exactly under its condition in R47. -/
theorem subcase_body {s : State} :
    s.subcase = some .body ↔ 2 ≤ s.count ∧ s.count + 1 < s.expectedLength.toNat := by
  unfold State.subcase
  by_cases h0 : s.count = 0
  · simp [h0]
  by_cases h1 : s.count = 1
  · simp [h1]
  by_cases h2 : s.count + 1 < s.expectedLength.toNat
  · simp [h0, h1, h2]
    omega
  · simp only [h0, h1, h2, if_false, and_false, iff_false]
    split <;> simp

/-- The sub-case is `last` exactly under its condition in R47. -/
theorem subcase_last {s : State} :
    s.subcase = some .last ↔ 2 ≤ s.count ∧ s.count + 1 = s.expectedLength.toNat := by
  unfold State.subcase
  by_cases h0 : s.count = 0
  · simp [h0]
  by_cases h1 : s.count = 1
  · simp [h1]
  by_cases h2 : s.count + 1 < s.expectedLength.toNat
  · simp only [h0, h1, h2, if_false, if_true]
    constructor
    · simp
    · omega
  · by_cases h3 : s.count + 1 = s.expectedLength.toNat
    · simp [h0, h1, h3]
      omega
    · simp [h0, h1, h2, h3]

/-- The verdict is 1 exactly when the sum is 0 (R79). -/
theorem verdict_iff (c : Byte) : verdict c = true ↔ c = 0 := decide_eq_true_iff

/-- A registered code reads as its text (R61). -/
theorem lookup_some {table : CmdTable} {code : Byte} {text : String} (h : tableEntry table code = some text) :
    lookupText table code = text ∧ lookupKnown table code = true := by
  simp [lookupText, lookupKnown, h]

/-- An absent code reads as the fallback (R61). -/
theorem lookup_none {table : CmdTable} {code : Byte} (h : tableEntry table code = none) :
    lookupText table code = Config.fallbackDesc ∧ lookupKnown table code = false := by
  simp [lookupText, lookupKnown, h]

/-- `MemRead(0, count)` is the whole sequence of values (R78). -/
theorem memRead_all (s : State) : memRead 0 s.count s = some (values s.buf) := by
  simp [memRead, State.count]

end Sys2Proof.Machine
end

