-- ==== Sys2Proof/Laws/Memory.lean ====
section
/-! SUPPORT. The buffer fits its cells (R28, R32), and every operation on the buffer keeps it so. -/

namespace Sys2Proof.Machine

/-- A buffer fits exactly when it holds at most 260 entries (R28, R32). -/
theorem Memory.wf_iff (m : List Entry) : Memory.wf m = true ↔ m.length ≤ 260 := decide_eq_true_iff

/-- The buffer after reset fits its cells. -/
theorem reset_memory_wf : Memory.wf State.reset.buf = true := by decide

/-- Draining leaves a buffer that fits. -/
theorem drain_memory_wf (s : State) : Memory.wf (drain s).buf = true := by
  simp [Memory.wf]

/-- Resetting leaves a buffer that fits. -/
theorem resetFramer_memory_wf (s : State) : Memory.wf (resetFramer s).buf = true := by
  simp [Memory.wf]

/-- The append is done only where it leaves a buffer that fits. -/
theorem appendThen_memory_wf {e : Entry} {s t : State} (h : appendThen e s .next = .next t) :
    Memory.wf t.buf = true := by
  rw [appendThen_next] at h
  obtain ⟨hc, ht⟩ := h
  cases ht
  unfold State.count at hc
  simp only [Memory.wf, appendEntry_buf, List.length_append, List.length_cons, List.length_nil,
    decide_eq_true_eq]
  omega

/-- Setting the length leaves the buffer as it is. -/
theorem setLength_memory (v : Byte) (s : State) : (setLength v s).buf = s.buf := rfl

/-- Emitting leaves the buffer as it is. -/
theorem emit_memory (anns : List Annotation) (st : Status) (s : State) : (emit anns st s).buf = s.buf := rfl

/-- Taking a record leaves the buffer as it is, or drains it with the last one (R125). -/
theorem takeRecord_memory (e : Edge) (s : State) : (takeRecord e s).buf = s.buf ∨ (takeRecord e s).buf = [] := by
  rcases takeRecord_cases e s with h | ⟨r, rest, _, _, ⟨_, h⟩ | ⟨_, h⟩⟩ <;> rw [h] <;> simp

/-- Taking a record leaves a buffer that fits. -/
theorem takeRecord_memory_wf {e : Edge} {s : State} (h : Memory.wf s.buf = true) :
    Memory.wf (takeRecord e s).buf = true := by
  rcases takeRecord_memory e s with hb | hb <;> rw [hb]
  · exact h
  · rfl

/-- Holding a packet whose last byte was appended leaves a buffer that fits (R32: 260 inside the emission). -/
theorem holdPacket_memory_wf {ev : Event} {s t : State} (h : s.count < Config.bufDepth) :
    Memory.wf (holdPacket (.acceptLast ev) s t).buf = true := by
  rw [Memory.wf_iff]
  unfold State.count Config.bufDepth at h
  simp only [holdPacket, List.length_append, List.length_cons, List.length_nil]
  omega

end Sys2Proof.Machine
end

