-- ==== Sys2Proof/Tests/Slice0.lean ====
section
/-! SUPPORT. The row's own tests: ill-formed operands, words written out from the spec's encodings, single steps with
the values of spec/95_test_vectors.md, and for each obligation with hypotheses a state and operands that meet them. -/

open Sys2Proof Sys2Proof.Machine

namespace Sys2Proof.Tests

/-! ## Helpers -/

/-- An event with `aux = 0`. -/
def evt (v : Byte) (ss es : Offset) : Event := { aux := 0, value := v, ss := ss, es := es }

/-- The state after reset with these entries buffered and this length. -/
def holding (buf : List Entry) (len : Len) : State := { State.reset with buf := buf, expectedLength := len }

/-- The four header bytes of the source's scenario E1. -/
def e1Header : List Entry :=
  [ { value := 0x02, ss := 10, es := 18 }, { value := 0x00, ss := 20, es := 28 },
    { value := 0x03, ss := 30, es := 38 }, { value := 0x0A, ss := 40, es := 48 } ]

/-- `n` entries whose second says `N = 255`. -/
def longBuf (n : Nat) : List Entry :=
  { value := 0x28, ss := 0, es := 8 } :: { value := 0xFF, ss := 10, es := 18 } ::
    List.replicate (n - 2) { value := 0x01, ss := 20, es := 28 }

/-- The events of vector V1. -/
def v1Events : List Event :=
  [evt 0x02 10 18, evt 0x00 20 28, evt 0x03 30 38, evt 0x0A 40 48, evt 0xF1 50 58]

/-- `count` and `expected_length` of a next state. -/
def countExp (o : Host.Outcome State Fault Refusal) : Option (Nat × Nat) :=
  match o with
  | .next s => some (s.count, s.expectedLength.toNat)
  | .fault _ => none
  | .refused _ => none

/-- The number of annotation and of status records of a next state. -/
def outputs (o : Host.Outcome State Fault Refusal) : Option (Nat × Nat) :=
  match o with
  | .next s => some (s.annotations.length, s.statuses.length)
  | .fault _ => none
  | .refused _ => none

/-- The lines of expected output of a next state's records (R58). -/
def lines (o : Host.Outcome State Fault Refusal) : List String :=
  match o with
  | .next s => s.annotations.map (annotationLine summaryFmt) ++ s.statuses.map statusLine
  | .fault _ => []
  | .refused _ => []

/-- What a function row gave back. -/
def result (o : Host.Outcome State Fault Refusal) : Option FnResult :=
  match o with
  | .next s => s.fnResult
  | .fault _ => none
  | .refused _ => none

/-- The edge that delivers a data byte, or only lets the receiver take a record. -/
def edge (valid : Bool) (ecw : BitVec 10) (ready : Bool) : Edge :=
  { rst := false, evValid := valid, ecw := ecw, evSs := 50, evEs := 58, anReady := ready }

/-- Four bytes of a five-byte packet, the completing edge and five edges that take a record to come. -/
def e1Driven : State :=
  { holding e1Header 5 with edges := edge true 0x2EF true :: List.replicate 5 (edge false 0x000 true) }

/-- R14 on a state of the form `holding`, as a closed check. -/
theorem holding_framerInv {buf : List Entry} {len : Len}
    (h : (buf.length < 2 ↔ len = 0) ∧ (∀ e ∈ buf[1]?, len.toNat = e.value.toNat + 5) ∧
      (2 ≤ buf.length → buf.length < len.toNat)) : (holding buf len).FramerInv :=
  ⟨h.1, fun e he => h.2.1 e he, h.2.2, rfl⟩

/-- With nothing left to take, R14 is the whole invariant. -/
theorem inv_of_framerInv {s : State} (h : s.FramerInv) (hp : s.pending = []) : s.Inv :=
  ⟨h.lengthKnown, h.lengthByte, fun _ => h.below, h.mode, by simp [State.portShape, hp], fun hn => absurd hp hn⟩

theorem empty_framerInv : State.reset.FramerInv := holding_framerInv (by decide)

theorem e1_framerInv : (holding e1Header 5).FramerInv := holding_framerInv (by decide)

/-! ## Well-formedness: a term that breaks each check is refused -/

theorem test_wellFormed_smoke_ss : (Instr.ignore (evt 0 (2 ^ 64) 0)).wellFormed = false := by decide
theorem test_wellFormed_smoke_es : (Instr.acceptLast (evt 0 0 (2 ^ 64))).wellFormed = false := by decide
theorem test_wellFormed_top : (Instr.acceptDst (evt 0xFF (2 ^ 64 - 1) (2 ^ 64 - 1))).wellFormed = true := by decide

/-! ## Words written out from R45, R47 and the SEL columns of 95_test_vectors.md -/

theorem test_decode_reset : decode (some .len) { sel := 0b10000000000#11, ss := 0, es := 0 } = .ok .reset := by decide
theorem test_decode_reset_wins :
    decode (some .len) { sel := 0b11111111111#11, ss := 0, es := 0 } = .ok .reset := by decide
theorem test_decode_ignore :
    decode none { sel := 0b00111111111#11, ss := 1, es := 2 } =
      .ok (.ignore { aux := 1, value := 0xFF, ss := 1, es := 2 }) := by decide
theorem test_decode_dst :
    decode (some .dst) { sel := 0b01000000010#11, ss := 10, es := 18 } = .ok (.acceptDst (evt 0x02 10 18)) := by decide
theorem test_decode_len :
    decode (some .len) { sel := 0b01000000000#11, ss := 20, es := 28 } = .ok (.acceptLen (evt 0x00 20 28)) := by decide
theorem test_decode_body :
    decode (some .body) { sel := 0b01111100101#11, ss := 1030, es := 1039 } =
      .ok (.acceptBody { aux := 1, value := 0xE5, ss := 1030, es := 1039 }) := by decide
theorem test_decode_last :
    decode (some .last) { sel := 0b01011101111#11, ss := 50, es := 58 } = .ok (.acceptLast (evt 0xEF 50 58)) := by decide
theorem test_encode_function_rows :
    encode .interpret = none ∧ encode (.lookup 1) = none ∧ encode (.csum8 []) = none ∧ encode (.crc16 []) = none := by
  decide
theorem test_decodeTableWord :
    decodeTableWord 16 0x400 = some .reset ∧ decodeTableWord 16 0x000 = some (.ignore (evt 0 0 0)) ∧
      decodeTableWord 16 0x200 = some (.acceptDst (evt 0 0 0)) ∧ decodeTableWord 16 0x800 = none := by decide
theorem test_withFetchWord_runs :
    countExp (step (State.reset.withFetchWord 16 0x200)) = some (1, 0) ∧
      countExp (step ((holding e1Header 5).withFetchWord 16 0x400)) = some (0, 0) := by decide

/-! ## One step of each operation -/

/-- V-R3: 7 bytes are lost. -/
theorem test_reset : exec .reset (holding (longBuf 7) 260) = .next State.reset := rfl
/-- V-I3: the packet is not completed. -/
theorem test_ignore : countExp (exec (.ignore (evt 0 5 6)) (holding e1Header 5)) = some (4, 5) := by decide
/-- V-A2. -/
theorem test_acceptDst : countExp (exec (.acceptDst (evt 0xFF 0 8)) State.reset) = some (1, 0) := by decide
/-- V-A3 and V-A4: no wrap at 256. -/
theorem test_acceptLen :
    countExp (exec (.acceptLen (evt 0x00 10 18)) (holding (e1Header.take 1) 0)) = some (2, 5) ∧
      countExp (exec (.acceptLen (evt 0xFF 10 18)) (holding (e1Header.take 1) 0)) = some (2, 260) := by decide
/-- V-A7. -/
theorem test_acceptBody :
    countExp (exec (.acceptBody (evt 0x0A 30 38)) (holding (e1Header.take 3) 5)) = some (4, 5) := by decide
/-- V-A8 and V-A9: the longest packet. -/
theorem test_longest_packet :
    countExp (exec (.acceptBody (evt 0xFE 0 1)) (holding (longBuf 258) 260)) = some (259, 260) ∧
      countExp (exec (.acceptLast (evt 0x62 0 1)) (holding (longBuf 259) 260)) = some (0, 0) ∧
      outputs (exec (.acceptLast (evt 0x62 0 1)) (holding (longBuf 259) 260)) = some (5, 1) := by decide +kernel
/-- E1: the five records and the status of the source's scenario. -/
theorem test_acceptLast :
    lines (exec (.acceptLast (evt 0xEF 50 58)) (holding e1Header 5)) =
      ["A 10..18 0 \"dst: 2\"", "A 20..28 1 \"len: 0\"", "A 30..38 2 \"src: 3\"", "A 40..48 3 \"cmd: 10\"",
        "A 10..58 6 \"10: Unhandled\"", "S csum=0xFE ok=0"] := by decide +kernel
/-- V1 and V6, from the whole buffer, with a table entry. -/
theorem test_interpret :
    lines (exec .interpret { holding (e1Header ++ [{ value := 0xF1, ss := 50, es := 58 }]) 5 with
        cmdTable := [(10, "T")] }) =
      ["A 10..18 0 \"dst: 2\"", "A 20..28 1 \"len: 0\"", "A 30..38 2 \"src: 3\"", "A 40..48 3 \"cmd: 10\"",
        "A 10..58 6 \"10: T\"", "S csum=0x00 ok=1"] := by decide +kernel
/-- V-L1 to V-L4. -/
theorem test_lookup :
    ([1, 254, 0, 255].map fun code =>
        result (exec (.lookup code) { State.reset with cmdTable := [(1, "A"), (254, "B")] })) =
      [some (.text "A" true), some (.text "B" true), some (.text "Unhandled" false),
        some (.text "Unhandled" false)] := by decide
/-- V-S5, V-S7 and V-S10. -/
theorem test_csum8 :
    ([[0xFF, 0x01], [0xFF, 0xFF, 0xFF], [0x02, 0x00, 0x03, 0x0A, 0xEF]].map fun bs =>
        result (exec (.csum8 bs) State.reset)) =
      [some (.byte 0x00), some (.byte 0xFD), some (.byte 0xFE)] := by decide +kernel
/-- V-C1, V-C4, V-C7 and V-C8. -/
theorem test_crc16 :
    ([[], [0x01], [0x01, 0x02], [0x02, 0x01]].map fun bs => result (exec (.crc16 bs) State.reset)) =
      [some (.word 0x0000), some (.word 0x1021), some (.word 0x1373), some (.word 0x7643)] := by decide +kernel
/-- V-C9. -/
theorem test_crc16_check_value :
    crc16 [0x31, 0x32, 0x33, 0x34, 0x35, 0x36, 0x37, 0x38, 0x39] = 0x31C3 := by decide +kernel

/-! ## The parts beside the operations -/

/-- V7: the port encoding of the summary record, and the status beside it. -/
theorem test_port_encoding :
    portRecord [] { csum := 0, ok := true }
        { ss := 10, es := 58, cls := .packetSummary, label := .summary 0x0A "Unhandled" } =
      { ann := { ss := 10, es := 58, cls := 6, value := 0x0A, known := false },
        status := some { csum := 0, ok := true } } := by decide
/-- R125: the packet is held while its records are presented, and drained with the fifth. -/
theorem test_drain_with_the_fifth_record :
    countExp (Host.Core.run Sys2Proof.core 1 e1Driven) = some (5, 5) ∧
      countExp (Host.Core.run Sys2Proof.core 5 e1Driven) = some (5, 5) ∧
      countExp (Host.Core.run Sys2Proof.core 6 e1Driven) = some (0, 0) := by decide
/-- P2's parsed view. -/
theorem test_parsed_view :
    (parsePacket [] ([0x28, 0x03, 0x01, 0xE5, 0x10, 0x20, 0x30, 0x8F].map fun v =>
        { value := v, ss := 0, es := 0 })).map (fun p => (p.data, p.checksum)) =
      some ([0x10, 0x20, 0x30], 0x8F) := by decide
/-- P1's two packet lines. -/
theorem test_mkpkt :
    (mkpkt 0x02 0x01 0xFE [] 100 8 10).map (fun ls => ls.map Line.sel) =
      some [0x202, 0x200, 0x201, 0x2FE, 0x2FF] := by decide
/-! ## For each obligation with hypotheses, a state and operands that meet them together -/

/-- The obligations about a completing byte: four bytes of a five-byte packet are held. -/
theorem test_witness_last :
    (holding e1Header 5).FramerInv ∧ (holding e1Header 5).subcase = some .last ∧
      csum8 ((holding e1Header 5).buf.map (fun x => x.value) ++ [0xEF]) ≠ 0 :=
  ⟨e1_framerInv, by decide, by decide⟩

theorem e1Driven_inv : e1Driven.Inv :=
  inv_of_framerInv ⟨e1_framerInv.lengthKnown, e1_framerInv.lengthByte, e1_framerInv.below, rfl⟩ rfl

/-- A state in which the last record of a packet is presented, the packet still held, and two edges to come. -/
def presenting : State :=
  { holding (e1Header ++ [{ value := 0xEF, ss := 50, es := 58 }]) 5 with
    pending :=
      [ { ann := { ss := 10, es := 58, cls := 6, value := 0x0A, known := false },
          status := some { csum := 0xFE, ok := false } } ]
    edges := [edge true 0x202 false, edge true 0x202 true] }

theorem presenting_inv : presenting.Inv :=
  ⟨by unfold State.lengthKnownFromTwo; decide, by rintro e ⟨⟩; decide, (fun h => nomatch h), rfl,
    by unfold State.portShape; decide, fun _ => ⟨rfl, _, rfl, by decide⟩⟩

theorem test_witness_DecodeOfEncodeIsTheOperation :
    ∀ i ∈ [Instr.reset, .ignore (evt 0xFF (2 ^ 64 - 1) 0), .acceptLast (evt 0xFF (2 ^ 64 - 1) (2 ^ 64 - 1))],
      i.wellFormed = true ∧ (encode i).isSome := by decide
theorem test_witness_EncodeOfDecodeIsTheWord :
    ∃ i, ({ sel := 0x3FF, ss := 0, es := -1 } : EventWord).rst = false ∧
      decode (some .body) { sel := 0x3FF, ss := 0, es := -1 } = .ok i := ⟨_, rfl, rfl⟩
theorem test_witness_SelectionTable_reset : 0x400#11 &&& 0x400#11 = 0x400#11 ∧ 0x7FF#11 &&& 0x400#11 = 0x400#11 := by decide
theorem test_witness_SelectionTable_ignore : 0x1FF#11 &&& 0x600#11 = 0x000#11 := by decide
theorem test_witness_SelectionTable_accept :
    0x3FF#11 &&& 0x600#11 = 0x200#11 ∧ State.reset.count = 0 ∧ (holding (e1Header.take 1) 0).count = 1 ∧
      2 ≤ (holding (e1Header.take 2) 5).count ∧ (holding (e1Header.take 2) 5).count + 1 < (5#9).toNat ∧
      (holding (e1Header.take 3) 5).count + 1 < (5#9).toNat ∧ (holding e1Header 5).count + 1 = (5#9).toNat := by decide
theorem test_witness_SelectionTable_inv : State.reset.FramerInv ∧ (holding e1Header 5).FramerInv :=
  ⟨empty_framerInv, e1_framerInv⟩
theorem test_witness_EventControlWordLayout_bits :
    ({ sel := 0x281, ss := 0, es := 0 } : EventWord).value = 0x81 ∧
      ({ sel := 0x302, ss := 0, es := 0 } : EventWord).aux = 1 := by decide
theorem test_witness_EventControlWordLayout : (0x1FF#10)[9] = false ∧ (0x000#10)[9] = false := by decide
theorem test_witness_ResetClearsTheFramer :
    ({ sel := 0x400, ss := 0, es := 0 } : EventWord).rst = true ∧
      ({ sel := 0x7FF, ss := 0, es := 0 } : EventWord).rst = true := by decide
theorem test_witness_IgnoreHasNoEffect :
    ({ sel := 0x1FF, ss := 0, es := 0 } : EventWord).rst = false ∧
      ({ sel := 0x1FF, ss := 0, es := 0 } : EventWord).kind = .other := by decide
theorem test_witness_AcceptDstBuffersTheFirstByte : State.reset.csumMode = .csum8 ∧ State.reset.isEmpty :=
  ⟨rfl, rfl, rfl⟩
theorem test_witness_AcceptLenSetsTheLength :
    (holding (e1Header.take 1) 0).csumMode = .csum8 ∧
      (holding (e1Header.take 1) 0).buf = [{ value := 0x02, ss := 10, es := 18 }] := by decide
theorem test_witness_AcceptLenSetsTheLength_body :
    ∃ t, exec (.acceptBody (evt 0xFF 0 0)) (holding (e1Header.take 2) 5) = .next t := ⟨_, rfl⟩
theorem test_witness_AcceptBodyBuffersSilently :
    (holding (e1Header.take 2) 5).csumMode = .csum8 ∧ 2 ≤ (holding (e1Header.take 2) 5).count ∧
      (holding (e1Header.take 2) 5).count + 1 < (holding (e1Header.take 2) 5).expectedLength.toNat ∧
      (holding (e1Header.take 2) 5).expectedLength.toNat ≤ 260 ∧
      5 ≤ (holding (e1Header.take 2) 5).expectedLength.toNat := by decide
theorem test_witness_AcceptBodyBuffersSilently_top :
    2 ≤ (holding (longBuf 258) 260).count ∧
      (holding (longBuf 258) 260).count + 1 < (holding (longBuf 258) 260).expectedLength.toNat ∧
      (holding (longBuf 258) 260).expectedLength.toNat ≤ 260 := by decide +kernel
theorem test_witness_AcceptLastCompletesThePacket :
    ∃ e0 e1 e2 e3, (holding e1Header 5).csumMode = .csum8 ∧ (holding e1Header 5).buf = e0 :: e1 :: e2 :: e3 :: [] ∧
      ([] : List Entry).length + 5 = (holding e1Header 5).expectedLength.toNat ∧
      (holding e1Header 5).expectedLength.toNat ≤ 260 := ⟨_, _, _, _, rfl, rfl, rfl, by decide⟩
theorem test_witness_AcceptFollowsThePseudocode : (holding e1Header 5).FramerInv ∧ State.reset.FramerInv :=
  ⟨e1_framerInv, empty_framerInv⟩
theorem test_witness_InterpretEmitsTheRecords :
    ∃ s : State, ∃ e0 e1 e2 e3 last, s.csumMode = .csum8 ∧ s.buf = e0 :: e1 :: e2 :: e3 :: ([] ++ [last]) ∧
      s.count = s.expectedLength.toNat :=
  ⟨holding (e1Header ++ [{ value := 0xF1, ss := 50, es := 58 }]) 5, _, _, _, _, _, rfl, rfl, rfl⟩
theorem test_witness_LookupGivesTheEntryOrUnhandled :
    (∃ s : State, s.cmdTable = [(1, "A")] ++ (254, "B") :: [(254, "C")]) ∧
      (∀ p ∈ ([(1, "A")] : CmdTable), p.1 ≠ 254) ∧ (∀ p ∈ ([(1, "A"), (254, "B")] : CmdTable), p.1 ≠ 255) ∧
      ∀ p ∈ State.reset.cmdTable, p.1 ≠ 0 :=
  ⟨⟨State.resetWith _, rfl⟩, by decide, by decide, by decide⟩
theorem test_witness_Csum8Laws : ([0x01, 0x02] : List Byte).Perm [0x02, 0x01] := by decide
theorem test_witness_CrcIsLinear : ([0x01, 0x02] : List Byte).length = ([0x80, 0xFF] : List Byte).length := rfl
theorem test_witness_PortRecordLosesNoLabel :
    ∃ anns a, packetAnnotations [] (e1Header ++ [{ value := 0xF1, ss := 50, es := 58 }]) = some anns ∧ a ∈ anns :=
  ⟨_, _, rfl, List.mem_cons_self⟩
theorem test_witness_OutputsOfEachStep_last :
    (holding e1Header 5).FramerInv ∧ (holding e1Header 5).subcase = some .last ∧
      ∃ t, transact false { kind := .data, ev := evt 0xEF 50 58 } (holding e1Header 5) = .next t :=
  ⟨e1_framerInv, by decide, _, rfl⟩
theorem test_witness_OutputsOfEachStep_silent :
    State.reset.FramerInv ∧ State.reset.subcase ≠ some .last ∧
      ∃ t, transact false { kind := .data, ev := evt 0xEF 50 58 } State.reset = .next t :=
  ⟨empty_framerInv, by decide, _, rfl⟩
theorem test_witness_ChecksumMismatchIsOnlyReported :
    (holding e1Header 5).FramerInv ∧ (holding e1Header 5).subcase = some .last ∧
      csum8 ((holding e1Header 5).buf.map (fun x => x.value) ++ [0xEF]) ≠ 0 := test_witness_last
theorem test_witness_UnknownCommandIsNoError :
    (holding e1Header 5).FramerInv ∧ (holding e1Header 5).subcase = some .last := ⟨e1_framerInv, by decide⟩
theorem test_witness_ConditionsAreWhatIsRecorded :
    (holding e1Header 5).FramerInv ∧ (holding e1Header 5).subcase = some .last ∧
      Condition.checksumMismatch.meets none { kind := .data, ev := evt 0xEF 50 58 } (holding e1Header 5) = true ∧
      Condition.checksumMismatch.meets none { kind := .data, ev := evt 0xF1 50 58 } (holding e1Header 5) = false :=
  ⟨e1_framerInv, by decide, by decide, by decide⟩
theorem test_witness_BufferIsOnlyAppendedToOrEmptied :
    ∃ t, exec (.acceptBody (evt 0x0A 30 38)) (holding (e1Header.take 3) 5) = .next t ∧ t.buf ≠ [] ∧
      2 < (holding (e1Header.take 3) 5).count := ⟨_, rfl, by decide, by decide⟩
theorem test_witness_FrameOfTheBufferingOperations :
    (∃ t, exec (.acceptDst (evt 0x02 10 18)) State.reset = .next t) ∧
      (∃ t, exec (.acceptLen (evt 0x00 20 28)) (holding (e1Header.take 1) 0) = .next t) ∧
      ∃ t, exec (.acceptBody (evt 0x03 30 38)) (holding (e1Header.take 2) 5) = .next t := ⟨⟨_, rfl⟩, ⟨_, rfl⟩, _, rfl⟩
theorem test_witness_FrameOfTheFunctionRows :
    (encode .interpret = none ∧
      ∃ t, exec .interpret (holding (e1Header ++ [{ value := 0xF1, ss := 50, es := 58 }]) 5) = .next t) ∧
      encode (.crc16 [1]) = none ∧ ∃ t, exec (.crc16 [1]) State.reset = .next t := ⟨⟨rfl, _, rfl⟩, rfl, _, rfl⟩
theorem test_witness_StaticParametersAreNeverWritten :
    (∃ t, exec (.acceptLast (evt 0xEF 50 58)) (holding e1Header 5) = .next t) ∧ ∃ t, step e1Driven = .next t :=
  ⟨⟨_, rfl⟩, _, rfl⟩
theorem test_witness_LookupIsPure_states :
    State.reset.cmdTable = (holding e1Header 5).cmdTable ∧ State.reset ≠ holding e1Header 5 := by decide
theorem test_witness_LookupIsPure : ∃ t, exec (.acceptLast (evt 0xEF 50 58)) (holding e1Header 5) = .next t := ⟨_, rfl⟩
theorem test_witness_StepKeepsTheInvariant : e1Driven.Inv ∧ ∃ t, step e1Driven = .next t := ⟨e1Driven_inv, _, rfl⟩
theorem test_witness_StepNeverStops : e1Driven.Inv ∧ presenting.Inv ∧ State.reset.Inv :=
  ⟨e1Driven_inv, presenting_inv, inv_of_framerInv empty_framerInv rfl⟩
theorem test_witness_TransactIsTotal : (holding e1Header 5).FramerInv := e1_framerInv
theorem test_witness_BufferIsBounded :
    (holding e1Header 5).FramerInv ∧ Memory.wf (holding (longBuf 259) 260).buf = true ∧
      ∃ t, exec (.acceptLast (evt 0x62 0 1)) (holding e1Header 5) = .next t :=
  ⟨e1_framerInv, by decide +kernel, _, rfl⟩
theorem test_witness_BufferIsBounded_clock :
    presenting.Inv ∧ presenting.evReady = false ∧ e1Driven.Inv ∧ e1Driven.evReady = true :=
  ⟨presenting_inv, rfl, e1Driven_inv, rfl⟩
theorem test_witness_StoredStateTransitions :
    (State.reset.FramerInv ∧ State.reset.stored = some .empty) ∧
      ((holding (e1Header.take 1) 0).FramerInv ∧ (holding (e1Header.take 1) 0).stored = some .lenPending) ∧
      ((holding (e1Header.take 3) 5).FramerInv ∧ (holding (e1Header.take 3) 5).stored = some .accumulating ∧
        (holding (e1Header.take 3) 5).count + 1 < (5#9).toNat) ∧
      (holding e1Header 5).FramerInv ∧ (holding e1Header 5).stored = some .accumulating ∧
        (holding e1Header 5).count + 1 = (5#9).toNat :=
  ⟨⟨empty_framerInv, by decide⟩, ⟨holding_framerInv (by decide), by decide⟩,
    ⟨holding_framerInv (by decide), by decide, by decide⟩, e1_framerInv, by decide, by decide⟩
theorem test_witness_StepRunsTheDecodedOperation :
    ∃ e rest i, e1Driven.csumMode = .csum8 ∧ e1Driven.edges = e :: rest ∧ e.acts e1Driven.evReady = true ∧
      decode e1Driven.subcase e.word = .ok i := ⟨_, _, _, rfl, rfl, rfl, rfl⟩
theorem test_witness_IdleStepHoldsTheState : State.reset.csumMode = .csum8 ∧ State.reset.edges = [] := ⟨rfl, rfl⟩
theorem test_witness_InputHandshake_delivers :
    ∃ e rest, e1Driven.csumMode = .csum8 ∧ e1Driven.edges = e :: rest ∧ e.rst = false ∧ e.evValid = true ∧
      e1Driven.evReady = true := ⟨_, _, rfl, rfl, rfl, rfl, rfl⟩
theorem test_witness_InputHandshake_completes :
    ∃ e rest v, e1Driven.edges = e :: rest ∧ e.word.kind = .data ∧ e1Driven.subcase = some .last ∧
      transact false e.word.inEvent (takeRecord e { e1Driven with edges := rest, edgeCount := 1 }) = .next v :=
  ⟨_, _, _, rfl, rfl, rfl, rfl⟩
theorem test_witness_InputHandshake_waits :
    ∃ e rest, presenting.csumMode = .csum8 ∧ presenting.edges = e :: rest ∧ e.rst = false ∧
      presenting.evReady = false := ⟨_, _, rfl, rfl, rfl, rfl⟩
theorem test_witness_InputHandshake_stays :
    ∃ (s t : State) (e : Edge) (rest : List Edge), s.Inv ∧ s.edges = e :: rest ∧ e.rst = false ∧ s.evReady = true ∧
      s.subcase ≠ some .last ∧ step s = .next t :=
  ⟨{ State.reset with edges := [edge true 0x202 false] }, _, _, _,
    inv_of_framerInv ⟨empty_framerInv.lengthKnown, empty_framerInv.lengthByte, empty_framerInv.below, rfl⟩ rfl,
    rfl, rfl, rfl, by decide, rfl⟩
theorem test_witness_EmissionEdge :
    ∃ e rest r left, presenting.csumMode = .csum8 ∧ presenting.edges = e :: rest ∧ e.rst = false ∧
      presenting.pending = r :: left := ⟨_, _, _, _, rfl, rfl, rfl, rfl⟩
theorem test_witness_EmissionSequence :
    ∃ e e1 e2 e3 e4 e5, e1Driven.Inv ∧ e1Driven.pending = [] ∧ e1Driven.subcase = some .last ∧
      e1Driven.edges = [e, e1, e2, e3, e4, e5] ++ [] ∧ e.rst = false ∧ e.evValid = true ∧ e.word.kind = .data ∧
      ∀ x ∈ [e1, e2, e3, e4, e5], x.rst = false ∧ x.anReady = true :=
  ⟨_, _, _, _, _, _, e1Driven_inv, rfl, rfl, rfl, rfl, rfl, rfl, by decide⟩
theorem test_witness_StatusAccompaniesTheSummary : presenting.Inv ∧ presenting.outPins.pkValid = true :=
  ⟨presenting_inv, rfl⟩
theorem test_witness_ResetEdge :
    ∃ (s : State) (e : Edge) (rest : List Edge), s.csumMode = .csum8 ∧ s.edges = e :: rest ∧ e.rst = true ∧
      s.pending ≠ [] :=
  ⟨{ presenting with edges := [{ edge true 0x202 true with rst := true }] }, _, _, rfl, rfl, rfl, by decide⟩
theorem test_witness_NoRecordIsLostAtThePort :
    presenting.Inv ∧ (∀ e ∈ presenting.edges.head?, e.rst = false) ∧ ∃ t, step presenting = .next t :=
  ⟨presenting_inv, by decide, _, rfl⟩
theorem test_witness_NothingIsEmittedBeforeTheLastByte :
    State.reset.csumMode = .csum8 ∧ State.reset.isEmpty ∧
      (∀ l, (v1Events.take 4)[1]? = some l → (v1Events.take 4).length < l.value.toNat + 5) ∧
      ∀ l, (v1Events.take 1)[1]? = some l → (v1Events.take 1).length < l.value.toNat + 5 :=
  ⟨rfl, ⟨rfl, rfl⟩, by rintro l ⟨⟩; decide, by rintro l ⟨⟩⟩
theorem test_witness_PacketReturnsToEmpty :
    ∃ l, State.reset.csumMode = .csum8 ∧ State.reset.isEmpty ∧ v1Events[1]? = some l ∧
      v1Events.length = l.value.toNat + 5 := ⟨_, rfl, ⟨rfl, rfl⟩, rfl, rfl⟩
theorem test_witness_StreamIsCutGreedily : State.reset.csumMode = .csum8 ∧ State.reset.isEmpty := ⟨rfl, rfl, rfl⟩
theorem test_witness_ContractOrdersTheRecords :
    ∃ t a b, State.reset.csumMode = .csum8 ∧ State.reset.isEmpty ∧ State.reset.annotations = [] ∧
      hostContract (v1Events ++ v1Events.map fun e => { e with ss := e.ss + 100, es := e.es + 100 }) ∧
      feed (v1Events ++ v1Events.map fun e => { e with ss := e.ss + 100, es := e.es + 100 }) State.reset = .next t ∧
      t.annotations[4]? = some a ∧ t.annotations[5]? = some b ∧ 4 / 5 < 5 / 5 :=
  ⟨_, _, _, rfl, ⟨rfl, rfl⟩, rfl, by simp [hostContract, notBefore, v1Events, evt], rfl, rfl, rfl, by decide⟩
theorem test_witness_CompactImplementationRefines : (holding e1Header 5).FramerInv := e1_framerInv
theorem test_witness_FramersShareNothing :
    ∃ after, stepAt 0 { table := [], framers := [e1Driven, State.reset] } = some after ∧ 1 ≠ 0 := ⟨_, rfl, by decide⟩
theorem test_witness_FramersShareNothing_steps :
    ({ table := [], framers := [e1Driven, State.reset] } : System).framers[0]? = some e1Driven ∧
      ({ e1Driven with cmdTable := [] } : State).Inv := ⟨rfl, e1Driven_inv⟩
theorem test_witness_ScriptLinesSelect : Line.rst = .rst ∧ Line.d1 0xFF 0 0 ≠ .rst := by decide
theorem test_witness_MadePacketsPass :
    ∃ ls, State.reset.csumMode = .csum8 ∧ State.reset.isEmpty ∧
      mkpkt 0x28 0x01 0xE5 [0x10, 0x20, 0x30] 1000 9 10 = some ls := ⟨_, rfl, ⟨rfl, rfl⟩, rfl⟩
theorem test_witness_Crc16ConfigurationIsRefused : ({ State.reset with csumMode := .crc16 } : State).csumMode = .crc16 := rfl
theorem test_witness_StopsOutsideTheConditions_subcase :
    State.reset.csumMode = .csum8 ∧ Instr.acceptLen (evt 0 0 0) = acceptInstr .len (evt 0 0 0) ∧
      State.reset.subcase ≠ some .len := by decide
theorem test_witness_StopsOutsideTheConditions_index :
    (holding (longBuf 260) 300).csumMode = .csum8 ∧ (holding (longBuf 260) 300).subcase = some .body ∧
      260 ≤ (holding (longBuf 260) 300).count := by decide +kernel
theorem test_witness_StopsOutsideTheConditions_short :
    (holding (e1Header.take 2) 3).csumMode = .csum8 ∧ (holding (e1Header.take 2) 3).subcase = some .last ∧
      (holding (e1Header.take 2) 3).count < 4 := by decide
theorem test_witness_StopsOutsideTheConditions_interpret :
    (holding e1Header 5).count ≠ (holding e1Header 5).expectedLength.toNat ∧
      (holding e1Header 4).count < 5 := by decide

end Sys2Proof.Tests
end

section
/-! The pins as functions of the records left to take, and the framer when it holds nothing. -/

namespace Sys2Proof.Machine

/-! ## Nothing left to take -/

/-- `ev_ready` is 1 exactly while no record is left to take (R124). -/
theorem evReady_iff {s : State} : s.evReady = true ↔ s.pending = [] := List.isEmpty_iff

/-- `an_valid` is 1 exactly while a record is left to take (R125). -/
theorem anValid_iff {s : State} : s.anValid = true ↔ s.pending ≠ [] := by
  simp [State.anValid]

/-- `pk_valid` is 1 exactly while the first record left to take is of class 6 (R25). -/
theorem pkValid_iff {s : State} :
    s.pkValid = true ↔ ∃ r left, s.pending = r :: left ∧ r.ann.cls = 6 := by
  unfold State.pkValid
  split <;> simp_all

/-! ## The pins -/

/-- The pin `an_valid` (R24). -/
@[simp] theorem outPins_anValid (s : State) : s.outPins.anValid = s.anValid := by
  unfold State.outPins
  split <;> rfl

/-- The pin `pk_valid` (R25). -/
@[simp] theorem outPins_pkValid (s : State) : s.outPins.pkValid = s.pkValid := by
  unfold State.outPins
  split <;> rfl

/-- The class pins carry the class of the record presented (R24). -/
theorem outPins_anCls {s : State} {r : PortRecord} {left : List PortRecord} (h : s.pending = r :: left) :
    s.outPins.anCls = r.ann.cls := by
  simp [State.outPins, h]

/-- The status pins carry the status of the record presented, where it has one (R25). -/
theorem outPins_status {s : State} {r : PortRecord} {left : List PortRecord} {st : Status}
    (h : s.pending = r :: left) (hst : r.status = some st) :
    s.outPins.pkCsum = st.csum ∧ s.outPins.pkOk = st.ok := by
  simp [State.outPins, h, hst]

/-- Beside a class 6 record left to take there is a status record (R25, R125). -/
theorem State.portShape.exists_status {s : State} (h : s.portShape) {r : PortRecord} (hr : r ∈ s.pending)
    (hc : r.ann.cls = 6) : ∃ st, r.status = some st :=
  Option.isSome_iff_exists.mp ((h.2 r hr).mpr hc)

/-! ## Nothing buffered -/

/-- The framer is EMPTY exactly when it has no byte and no length (R13). -/
theorem stored_empty_iff {s : State} : s.stored = some .empty ↔ s.isEmpty := by
  have hcount : s.count = 0 ↔ s.buf = [] := List.length_eq_zero_iff
  unfold State.isEmpty State.stored
  rw [← hcount]
  by_cases h : s.count = 0 ∧ s.expectedLength = 0
  · simp only [h, and_self, if_true]
  · rw [if_neg h]
    simp only [h, iff_false]
    split
    · simp
    · split <;> simp

/-- What R27 says of the buffer, the stored state and the handshakes: all of it follows from an empty buffer, no
length and no record left to take. -/
theorem reset_values_of_cleared {s : State} (hempty : s.isEmpty) (hpending : s.pending = []) :
    s.buf = [] ∧ s.count = 0 ∧ s.expectedLength = 0 ∧ s.stored = some .empty ∧
      s.evReady = true ∧ s.anValid = false ∧ s.pkValid = false := by
  have hcount : s.count = 0 := List.length_eq_zero_iff.mpr hempty.1
  have hanValid : s.anValid = false := by simp [← Bool.not_eq_true, anValid_iff, hpending]
  have hpkValid : s.pkValid = false := by simp [← Bool.not_eq_true, pkValid_iff, hpending]
  exact ⟨hempty.1, hcount, hempty.2, stored_empty_iff.mpr hempty, evReady_iff.mpr hpending, hanValid, hpkValid⟩

/-- `RESET` answers a next state in every state: the framer reset (R71). -/
theorem exec_reset (s : State) : exec .reset s = .next (resetFramer s) := rfl

end Sys2Proof.Machine
end

section
/-! The statements of `10_state.md`. -/

namespace Sys2Proof.Machine

/-- Settles O45: `pk_valid` reads the class of the record presented, and the invariant's port shape puts the status
beside class 6. -/
theorem statusAccompaniesTheSummary : Obligations.StatusAccompaniesTheSummary := by
  intro s hs
  rw [outPins_pkValid, outPins_anValid, anValid_iff, pkValid_iff]
  refine ⟨⟨?_, ?_⟩, ?_⟩
  · rintro ⟨r, left, hp, hc⟩
    exact ⟨by simp [hp], (outPins_anCls hp).trans hc⟩
  · rintro ⟨hne, hc⟩
    obtain ⟨r, left, hp⟩ := List.exists_cons_of_ne_nil hne
    exact ⟨r, left, hp, (outPins_anCls hp).symm.trans hc⟩
  · rintro ⟨r, left, hp, hc⟩
    obtain ⟨st, hst⟩ := hs.ports.exists_status (by simp [hp]) hc
    exact ⟨r, left, st, hp, hst, outPins_status hp hst⟩

/-- Settles O33: both the state after reset and the state `RESET` answers are cleared, and neither's static
parameters are written. -/
theorem resetValues : Obligations.ResetValues := by
  refine ⟨⟨[], rfl⟩, fun table => ⟨?_, rfl⟩, fun s => ⟨resetFramer s, exec_reset s, ?_, ?_, ?_⟩⟩
  · exact reset_values_of_cleared ⟨rfl, rfl⟩ rfl
  · exact reset_values_of_cleared ⟨resetFramer_buf s, resetFramer_expectedLength s⟩ (resetFramer_pending s)
  · exact resetFramer_cmdTable s
  · exact resetFramer_csumMode s

end Sys2Proof.Machine
end

section
/-! The bits of the selector and of the event control word, what the decoder and the step select by them, and the text
the port encoding of a record keeps. -/

namespace Sys2Proof

/-! ## Bits under a mask -/

/-- A masked word that matches a row has the row's bit wherever the mask is 1 (R47). -/
theorem getElem_of_masked {n : Nat} {x mask row : BitVec n} (h : x &&& mask = row) {i : Nat} (hi : i < n)
    (hm : mask[i] = true) : x[i] = row[i] := by
  rw [← h, BitVec.getElem_and, hm, Bool.and_true]

/-! ## The fields of the event wires -/

/-- `SEL[9] = 1` is a data event (R45). -/
theorem kind_data_iff {w : EventWord} : w.kind = .data ↔ w.sel[9] = true := by
  unfold EventWord.kind
  cases w.sel[9] <;> simp

/-- `SEL[9] = 0` is a non-data event (R45). -/
theorem kind_other_iff {w : EventWord} : w.kind = .other ↔ w.sel[9] = false := by
  unfold EventWord.kind
  cases w.sel[9] <;> simp

/-- `aux` is bit 8 of the selector (R45). -/
theorem aux_eq_bit (w : EventWord) : w.aux = BitVec.ofBool w.sel[8] := by
  ext i hi
  obtain rfl : i = 0 := by omega
  simp [EventWord.aux]

/-- `value` is bits 7:0 of the selector (R45). -/
theorem value_getElem (w : EventWord) {k : Nat} (hk : k < 8) : w.value[k] = w.sel[k] := by
  simp [EventWord.value, BitVec.getLsbD_eq_getElem (show k < 11 by omega)]

/-! ## The fields of an encoded selector -/

/-- `rst` stands above the event control word (R47). -/
@[simp] theorem selector_getElem_top (rst : Bool) (word : BitVec 10) : (selector rst word)[10] = rst :=
  (BitVec.getElem_append _).trans (by simp)

/-- The event control word stands below `rst` as it is (R47). -/
theorem selector_getElem_low (rst : Bool) (word : BitVec 10) {i : Nat} (hi : i < 10) :
    (selector rst word)[i] = word[i] :=
  (BitVec.getElem_append _).trans (dif_pos hi)

/-- The kind bit of the event control word (R45). -/
theorem ecw_getElem_kind (k : EventKind) (ev : Event) : (ecw k ev)[9] = decide (k = .data) := by
  refine (BitVec.getElem_append _).trans ((dif_neg (by decide)).trans ?_)
  rw [BitVec.getElem_append, dif_neg (by decide)]
  cases k <;> rfl

/-- The secondary field's bit of the event control word (R45). -/
theorem ecw_getElem_aux (k : EventKind) (ev : Event) : (ecw k ev)[8] = ev.aux[0] := by
  refine (BitVec.getElem_append _).trans ((dif_neg (by decide)).trans ?_)
  rw [BitVec.getElem_append, dif_pos (by decide)]

/-- The value bits of the event control word (R45). -/
theorem ecw_getElem_value (k : EventKind) (ev : Event) {i : Nat} (hi : i < 8) :
    (ecw k ev)[i] = ev.value[i] :=
  (BitVec.getElem_append _).trans (dif_pos hi)

/-- The wires of an encoded event carry its reset bit, kind, secondary field and value (R45, R47). -/
theorem fields_of_selector_ecw {w : EventWord} {rst : Bool} {k : EventKind} {ev : Event}
    (h : w.sel = selector rst (ecw k ev)) :
    w.rst = rst ∧ w.kind = k ∧ w.aux = ev.aux ∧ w.value = ev.value := by
  have hlow : ∀ {i : Nat} (hi : i < 10), w.sel[i] = (ecw k ev)[i] := fun hi => by
    simp only [h, selector_getElem_low _ _ hi]
  refine ⟨?_, ?_, ?_, ?_⟩
  · simp [EventWord.rst, h]
  · cases k
    · exact kind_data_iff.mpr (by rw [hlow (by decide), ecw_getElem_kind]; rfl)
    · exact kind_other_iff.mpr (by rw [hlow (by decide), ecw_getElem_kind]; rfl)
  · rw [aux_eq_bit, hlow (by decide), ecw_getElem_aux]
    ext i hi
    obtain rfl : i = 0 := by omega
    simp
  · ext i hi
    rw [value_getElem w hi, hlow (by omega), ecw_getElem_value k ev hi]

/-! ## What a word decodes to -/

/-- A word with `rst = 1` decodes to `RESET`, whatever the state gives (R47). -/
theorem decode_reset {w : EventWord} (p : Option Subcase) (hr : w.rst = true) : decode p w = .ok .reset := by
  rw [decode, hr, select_reset]

/-- A word of a non-data event decodes to `IGNORE`, whatever the state gives (R47). -/
theorem decode_other {w : EventWord} (p : Option Subcase) (hr : w.rst = false) (hk : w.kind = .other) :
    decode p w = .ok (.ignore w.event) := by
  rw [decode, EventWord.inEvent, hr, hk, select_other]

/-- A word of a data event decodes to the operation of the sub-case the state gives (R47). -/
theorem decode_data {w : EventWord} (q : Subcase) (hr : w.rst = false) (hk : w.kind = .data) :
    decode (some q) w = .ok (acceptInstr q w.event) := by
  rw [decode, EventWord.inEvent, hr, hk, select_data]

/-- Where the state gives a sub-case every word decodes to an operation (R47). -/
theorem decode_isOk (q : Subcase) (w : EventWord) : ∃ i, decode (some q) w = .ok i := by
  cases hr : w.rst with
  | true => exact ⟨_, decode_reset _ hr⟩
  | false =>
    cases hk : w.kind with
    | data => exact ⟨_, decode_data q hr hk⟩
    | other => exact ⟨_, decode_other _ hr hk⟩

/-! ## The rows of the selection table -/

/-- The match of `RESET` is `rst = 1` (R47). -/
theorem rst_of_reset_row {w : EventWord} (h : w.sel &&& 0x400#11 = 0x400#11) : w.rst = true :=
  getElem_of_masked h _ rfl

/-- The match of `IGNORE` is `rst = 0` and a non-data event (R47). -/
theorem other_of_ignore_row {w : EventWord} (h : w.sel &&& 0x600#11 = 0x000#11) :
    w.rst = false ∧ w.kind = .other :=
  ⟨getElem_of_masked h _ rfl, kind_other_iff.mpr (getElem_of_masked h _ rfl)⟩

/-- The match of the `ACCEPT` rows is `rst = 0` and a data event (R47). -/
theorem data_of_accept_row {w : EventWord} (h : w.sel &&& 0x600#11 = 0x200#11) :
    w.rst = false ∧ w.kind = .data :=
  ⟨getElem_of_masked h _ rfl, kind_data_iff.mpr (getElem_of_masked h _ rfl)⟩

end Sys2Proof

namespace Sys2Proof.Machine

/-- Every state that meets R14 gives a sub-case: from two bytes on, the count is below the length (R47). -/
theorem State.FramerInv.exists_subcase {s : State} (h : s.FramerInv) : ∃ q, s.subcase = some q := by
  obtain h0 | h1 | h2 : s.count = 0 ∨ s.count = 1 ∨ 2 ≤ s.count := by omega
  · exact ⟨.dst, subcase_dst.mpr (List.length_eq_zero_iff.mp h0)⟩
  · exact ⟨.len, subcase_len.mpr h1⟩
  · obtain hbody | hlast : s.count + 1 < s.expectedLength.toNat ∨ s.count + 1 = s.expectedLength.toNat := by
      have := h.below h2
      omega
    · exact ⟨.body, subcase_body.mpr ⟨h2, hbody⟩⟩
    · exact ⟨.last, subcase_last.mpr ⟨h2, hlast⟩⟩

/-! ## The transaction step by what is delivered -/

/-- A delivery with `rst = 1` is `RESET` (R65). -/
theorem transact_reset (e : InEvent) (s : State) : transact true e s = exec .reset s := rfl

/-- A non-data event is `IGNORE` (R65). -/
theorem transact_other (ev : Event) (s : State) :
    transact false { kind := .other, ev := ev } s = exec (.ignore ev) s := rfl

/-- A data event is the operation of the sub-case the state gives (R65). -/
theorem transact_data {s : State} {q : Subcase} (h : s.subcase = some q) (ev : Event) :
    transact false { kind := .data, ev := ev } s = exec (acceptInstr q ev) s := by
  rw [transact, h, select_data]
  rfl

/-- A data event is refused in a state that gives no sub-case. -/
theorem transact_data_none {s : State} (h : s.subcase = none) (ev : Event) :
    transact false { kind := .data, ev := ev } s = .refused (.undecodable .noSubcase) := by
  rw [transact, h, select_data_none]
  rfl

/-- `ACCEPT` does not read the secondary field: neither the buffer entry nor the length has it (R45). -/
theorem exec_acceptInstr_aux (q : Subcase) (ev : Event) (a : BitVec 1) (s : State) :
    exec (acceptInstr q { ev with aux := a }) s = exec (acceptInstr q ev) s := by
  cases q <;> rfl

/-- No step reads the secondary field (R45). -/
theorem transact_aux (rst : Bool) (k : EventKind) (ev : Event) (a : BitVec 1) (s : State) :
    transact rst { kind := k, ev := { ev with aux := a } } s = transact rst { kind := k, ev := ev } s := by
  cases rst with
  | true => rw [transact_reset, transact_reset]
  | false =>
    cases k with
    | other => rfl
    | data =>
      cases hq : s.subcase with
      | none => rw [transact_data_none hq, transact_data_none hq]
      | some q => rw [transact_data hq, transact_data hq, exec_acceptInstr_aux]

/-- No step reads anything of a non-data event (R70). -/
theorem transact_other_event (rst : Bool) (ev ev' : Event) (s : State) :
    transact rst { kind := .other, ev := ev } s = transact rst { kind := .other, ev := ev' } s := by
  cases rst <;> rfl

/-! ## Labels and the port encoding -/

/-- The text of a header-field record: the class's field name, a colon, one space, the decimal value (R53). -/
theorem labelText_field {a : Annotation} {v : Byte} (fmt : Byte → String → String) (h : a.label = .field v) :
    labelText fmt a = fieldName a.cls ++ ": " ++ dec v := by
  rw [labelText, h]

/-- The text of a summary record is the format's (R54). -/
theorem labelText_summary {a : Annotation} {c : Byte} {d : String} (fmt : Byte → String → String)
    (h : a.label = .summary c d) : labelText fmt a = fmt c d := by
  rw [labelText, h]

/-- The four field names with their colon and space (R53). -/
theorem fieldName_colon :
    fieldName .destination ++ ": " = "dst: " ∧ fieldName .length ++ ": " = "len: " ∧
      fieldName .source ++ ": " = "src: " ∧ fieldName .commandHeader ++ ": " = "cmd: " := by decide

/-- A code that is not known reads as the fallback, so the known bit and the table give the description (R61, R55). -/
theorem lookupText_of_known (table : CmdTable) (code : Byte) :
    (if lookupKnown table code then lookupText table code else Config.fallbackDesc) = lookupText table code := by
  cases h : tableEntry table code with
  | some text => rw [(lookup_some h).2, if_pos rfl]
  | none => simp [lookup_none h]

/-- Every record of a packet is a header field of one of the classes 0 to 3, or the summary of the command with the
table's description (R80, R81). -/
theorem packetAnnotations_label {table : CmdTable} {buf : List Entry} {anns : List Annotation} {a : Annotation}
    (h : packetAnnotations table buf = some anns) (ha : a ∈ anns) :
    (∃ v, a.label = .field v ∧ (classIndex a.cls).toNat ≤ 3) ∨
      (∃ c, a.label = .summary c (lookupText table c) ∧ a.cls = .packetSummary) := by
  unfold packetAnnotations at h
  split at h
  · cases h
    simp only [List.mem_cons, List.not_mem_nil, or_false] at ha
    rcases ha with rfl | rfl | rfl | rfl | rfl
    iterate 4 exact .inl ⟨_, rfl, by simp [classIndex]⟩
    exact .inr ⟨_, rfl, rfl⟩
  · cases h

/-- The port carries the class index (R52, R55). -/
@[simp] theorem annPort_cls (table : CmdTable) (a : Annotation) : (annPort table a).cls = classIndex a.cls := rfl

/-- Of a header-field record the port keeps the value, and `an_known` is 0 (R55). -/
theorem annPort_field {a : Annotation} {v : Byte} (table : CmdTable) (h : a.label = .field v) :
    (annPort table a).value = v ∧ (annPort table a).known = false := by
  simp [annPort, labelValue, h]

/-- Of a summary record the port keeps the code, and `an_known` is KNOWN of it (R55). -/
theorem annPort_summary {a : Annotation} {c : Byte} {d : String} (table : CmdTable) (h : a.label = .summary c d) :
    (annPort table a).value = c ∧ (annPort table a).known = lookupKnown table c := by
  simp [annPort, labelValue, h]

/-- The text of a header-field record is recovered from its class and value (R55). -/
theorem recoverText_field {a : Annotation} {v : Byte} (fmt : Byte → String → String) (table : CmdTable)
    (h : a.label = .field v) (hc : (classIndex a.cls).toNat ≤ 3) :
    recoverText fmt table (annPort table a) = some (labelText fmt a) := by
  obtain ⟨hdst, hlen, hsrc, hcmd⟩ := fieldName_colon
  rw [labelText_field fmt h, recoverText, annPort_cls, (annPort_field table h).1]
  cases hk : a.cls with
  | destination => rw [hdst]; rfl
  | length => rw [hlen]; rfl
  | source => rw [hsrc]; rfl
  | commandHeader => rw [hcmd]; rfl
  | commandData | checksum | packetSummary => rw [hk] at hc; exact absurd hc (by decide)

/-- The text of a summary record is recovered from the code, its known bit and the table (R55). -/
theorem recoverText_summary {a : Annotation} {c : Byte} (fmt : Byte → String → String) (table : CmdTable)
    (h : a.label = .summary c (lookupText table c)) (hc : a.cls = .packetSummary) :
    recoverText fmt table (annPort table a) = some (labelText fmt a) := by
  obtain ⟨hvalue, hknown⟩ := annPort_summary table h
  rw [labelText_summary fmt h, recoverText, annPort_cls, hc, hvalue, hknown, lookupText_of_known]
  rfl

end Sys2Proof.Machine
end

section
/-! The statements of `30_encoding.md`. -/

namespace Sys2Proof.Machine

/-- Settles O3: a row's match fixes `rst` and the kind of event, and the state condition of each `ACCEPT` row is that
of its sub-case. -/
theorem selectionTable : Obligations.SelectionTable := by
  refine ⟨fun s w => ⟨fun h => ?_, fun h => ?_, fun h => ?_⟩, fun _ _ => ⟨rfl, rfl, rfl, rfl⟩, fun s w hs => ?_⟩
  · exact decode_reset _ (rst_of_reset_row h)
  · obtain ⟨hr, hk⟩ := other_of_ignore_row h
    exact decode_other _ hr hk
  · obtain ⟨hr, hk⟩ := data_of_accept_row h
    have accepts : ∀ {q : Subcase}, s.subcase = some q → decode s.subcase w = .ok (acceptInstr q w.event) :=
      fun hq => by rw [hq, decode_data _ hr hk]
    exact ⟨fun h0 => accepts (subcase_dst.mpr (List.length_eq_zero_iff.mp h0)),
      fun h1 => accepts (subcase_len.mpr h1),
      fun h2 hbody => accepts (subcase_body.mpr ⟨h2, hbody⟩),
      fun h2 hlast => accepts (subcase_last.mpr ⟨h2, hlast⟩)⟩
  · obtain ⟨q, hq⟩ := hs.exists_subcase
    rw [hq]
    exact decode_isOk q w

/-- Settles O4: the fields bit by bit, the encoder's bits by the two appends that build the selector, and the fields
no rule reads by what each delivery performs. -/
theorem eventControlWordLayout : Obligations.EventControlWordLayout := by
  refine ⟨fun w => ?_, fun rst k ev ss es => ?_, fun ss es => ?_, fun word hword ss es => ?_, transact_aux, ?_⟩
  · exact ⟨rfl, kind_data_iff, kind_other_iff, aux_eq_bit w, fun k hk => value_getElem w hk⟩
  · exact fields_of_selector_ecw rfl
  · exact ⟨by simp [ecw], by simp [ecw], by simp [ecw]⟩
  · exact kind_other_iff.mpr ((selector_getElem_low false word (i := 9) (by decide)).trans hword)
  · exact fun rst ev v s => transact_other_event rst { ev with value := v } ev s

/-- Settles O22: each class's field name with its colon and space. -/
theorem headerLabelTexts : Obligations.HeaderLabelTexts := by
  intro fmt ss es v
  obtain ⟨hdst, hlen, hsrc, hcmd⟩ := fieldName_colon
  refine ⟨?_, ?_, ?_, ?_⟩
  · rw [labelText_field fmt rfl, hdst, dec]
  · rw [labelText_field fmt rfl, hlen, dec]
  · rw [labelText_field fmt rfl, hsrc, dec]
  · rw [labelText_field fmt rfl, hcmd, dec]

/-- Settles O23: a packet's record is a header field, whose class and value give its text, or the summary, whose
description the table gives again. -/
theorem portRecordLosesNoLabel : Obligations.PortRecordLosesNoLabel := by
  intro fmt table buf anns h a ha
  refine ⟨fun hss => (BitVec.toNat_ofNat _ _).trans (Nat.mod_eq_of_lt hss), fun hes => (BitVec.toNat_ofNat _ _).trans (Nat.mod_eq_of_lt hes), ?_⟩
  rcases packetAnnotations_label h ha with ⟨v, hlabel, hcls⟩ | ⟨c, hlabel, hcls⟩
  · obtain ⟨hvalue, hknown⟩ := annPort_field table hlabel
    exact ⟨recoverText_field fmt table hlabel hcls, .inl ⟨v, hlabel, hcls, hvalue, hknown⟩⟩
  · obtain ⟨hvalue, hknown⟩ := annPort_summary table hlabel
    exact ⟨recoverText_summary fmt table hlabel hcls,
      .inr ⟨c, hlabel, congrArg classIndex hcls, hvalue, hknown⟩⟩

end Sys2Proof.Machine
end

section
/-! The Command Table, the operations that answer a next state, and the records of a packet under another table. -/

namespace Sys2Proof.Machine

/-! ## The Command Table -/

/-- Reading the table is the list's own search for the first pair of a code (R61). -/
theorem tableEntry_eq_lookup (table : CmdTable) (code : Byte) : tableEntry table code = table.lookup code := by
  induction table with
  | nil => rfl
  | cons p rest ih =>
    obtain ⟨c, text⟩ := p
    by_cases hc : c = code
    · simp [tableEntry, hc]
    · have hne : (code == c) = false := beq_eq_false_iff_ne.mpr (Ne.symm hc)
      rw [tableEntry, if_neg hc, List.lookup_cons, hne, ih]

/-- The table's entry for a code is the text of the first pair of that code (R61). -/
theorem tableEntry_first {before after : CmdTable} {code : Byte} {text : String} (h : ∀ p ∈ before, p.1 ≠ code) :
    tableEntry (before ++ (code, text) :: after) code = some text := by
  rw [tableEntry_eq_lookup, List.lookup_eq_some_iff]
  exact ⟨before, after, rfl, fun p hp => bne_iff_ne.mpr (h p hp).symm⟩

/-- A table without a pair of the code has no entry for it (R61). -/
theorem tableEntry_absent {table : CmdTable} {code : Byte} (h : ∀ p ∈ table, p.1 ≠ code) :
    tableEntry table code = none := by
  rw [tableEntry_eq_lookup, List.lookup_eq_none_iff]
  exact fun p hp => bne_iff_ne.mpr (h p hp).symm

/-- `LOOKUP` answers a next state for every code in every state: text and KNOWN as the table gives them (R61). -/
theorem exec_lookup (code : Byte) (s : State) :
    exec (.lookup code) s = .next (setResult (.text (lookupText s.cmdTable code) (lookupKnown s.cmdTable code)) s) :=
  rfl

/-! ## When each `ACCEPT` operation and `INTERPRET` answer a next state, and which -/

/-- `ACCEPT.DST` only appends (R67). -/
theorem exec_acceptDst_next {ev : Event} {s t : State} :
    exec (.acceptDst ev) s = .next t ↔
      s.csumMode = .csum8 ∧ s.subcase = some .dst ∧ s.count < Config.bufDepth ∧ appendEntry (entryOf ev) s = t := by
  rw [exec, execAcceptDst, whenSubcase_next, appendThen_next, Host.Outcome.next.injEq]

/-- `ACCEPT.LEN` appends and sets the length (R66). -/
theorem exec_acceptLen_next {ev : Event} {s t : State} :
    exec (.acceptLen ev) s = .next t ↔
      s.csumMode = .csum8 ∧ s.subcase = some .len ∧ s.count < Config.bufDepth ∧
        setLength ev.value (appendEntry (entryOf ev) s) = t := by
  rw [exec, execAcceptLen, whenSubcase_next, appendThen_next, Host.Outcome.next.injEq]

/-- `ACCEPT.BODY` only appends (R68). -/
theorem exec_acceptBody_next {ev : Event} {s t : State} :
    exec (.acceptBody ev) s = .next t ↔
      s.csumMode = .csum8 ∧ s.subcase = some .body ∧ s.count < Config.bufDepth ∧ appendEntry (entryOf ev) s = t := by
  rw [exec, execAcceptBody, whenSubcase_next, appendThen_next, Host.Outcome.next.injEq]

/-- The state `ACCEPT.LAST` answers on a packet with these records: appended, emitted, drained (R69). -/
def completed (ev : Event) (anns : List Annotation) (s : State) : State :=
  drain (emit anns (statusOf (values (s.buf ++ [entryOf ev]))) (appendEntry (entryOf ev) s))

/-- `ACCEPT.LAST` completes the packet, whose length the appended byte reaches (R69). -/
theorem exec_acceptLast_next {ev : Event} {s t : State} :
    exec (.acceptLast ev) s = .next t ↔
      s.csumMode = .csum8 ∧ s.subcase = some .last ∧ s.count < Config.bufDepth ∧
        ∃ anns, packetAnnotations s.cmdTable (s.buf ++ [entryOf ev]) = some anns ∧ t = completed ev anns s := by
  have hcount : (appendEntry (entryOf ev) s).count = s.count + 1 := List.length_append
  rw [exec, execAcceptLast, whenSubcase_next, appendThen_next, thenDrain_next]
  refine and_congr_right fun _ => and_congr_right fun hq => and_congr_right fun _ => ?_
  simp only [interpretBuffer_next, hcount, appendEntry_expectedLength, (subcase_last.mp hq).2, true_and,
    appendEntry_cmdTable, appendEntry_buf]
  constructor
  · rintro ⟨u, ⟨anns, hanns, rfl⟩, ht⟩
    exact ⟨anns, hanns, ht⟩
  · rintro ⟨anns, hanns, ht⟩
    exact ⟨_, ⟨anns, hanns, rfl⟩, ht⟩

/-- `INTERPRET` only emits the records of the whole packet that is held (R77). -/
theorem exec_interpret_next {s t : State} :
    exec .interpret s = .next t ↔
      s.csumMode = .csum8 ∧ s.count = s.expectedLength.toNat ∧
        ∃ anns, packetAnnotations s.cmdTable s.buf = some anns ∧ t = emit anns (statusOf (values s.buf)) s := by
  rw [exec, execInterpret, whenAdmitted_next, interpretBuffer_next]

/-- No operation writes the static parameters (R17, R18). -/
theorem exec_static {i : Instr} {s t : State} (h : exec i s = .next t) :
    t.cmdTable = s.cmdTable ∧ t.csumMode = s.csumMode := by
  cases i with
  | acceptDst ev =>
    obtain ⟨-, -, -, rfl⟩ := exec_acceptDst_next.mp h
    exact ⟨rfl, rfl⟩
  | acceptLen ev =>
    obtain ⟨-, -, -, rfl⟩ := exec_acceptLen_next.mp h
    exact ⟨rfl, rfl⟩
  | acceptBody ev =>
    obtain ⟨-, -, -, rfl⟩ := exec_acceptBody_next.mp h
    exact ⟨rfl, rfl⟩
  | acceptLast ev =>
    obtain ⟨-, -, -, anns, -, rfl⟩ := exec_acceptLast_next.mp h
    exact ⟨rfl, rfl⟩
  | interpret =>
    obtain ⟨-, -, anns, -, rfl⟩ := exec_interpret_next.mp h
    exact ⟨rfl, rfl⟩
  | reset | ignore | lookup | csum8 | crc16 =>
    obtain rfl := Host.Outcome.next.inj h
    exact ⟨rfl, rfl⟩

/-! ## The packet completed by the next byte -/

@[simp] theorem completed_annotations (ev : Event) (anns : List Annotation) (s : State) :
    (completed ev anns s).annotations = s.annotations ++ anns := rfl

@[simp] theorem completed_pending (ev : Event) (anns : List Annotation) (s : State) :
    (completed ev anns s).pending =
      s.pending ++ anns.map (portRecord s.cmdTable (statusOf (values (s.buf ++ [entryOf ev])))) := rfl

/-- Before the last byte of a packet at least the header is held, and there is a cell for the byte (R6, R32). -/
theorem State.FramerInv.count_bounds_of_last {s : State} (hs : s.FramerInv) (hq : s.subcase = some .last) :
    Config.hdrLen ≤ s.count ∧ s.count < Config.bufDepth := by
  obtain ⟨h2, hlast⟩ := subcase_last.mp hq
  have hlen := hs.lengthByte _ (List.getElem?_eq_getElem h2)
  have hbyte := s.buf[1].value.isLt
  unfold Config.hdrLen Config.bufDepth
  omega

/-! ## The records of a packet under another table -/

/-- The summary record of a packet (R81). -/
def summaryRecord (ss es : Offset) (code : Byte) (description : String) : Annotation :=
  { ss := ss, es := es, cls := .packetSummary, label := .summary code description }

/-- A packet's records are header fields that do not depend on the table, then the summary, of which only the
description does (R64, R80, R81). -/
theorem packetAnnotations_eq_fields_append_summary {buf : List Entry} (h : Config.minPkt ≤ buf.length) :
    ∃ (fields : List Annotation) (ss es : Offset) (code : Byte), ∀ table,
      packetAnnotations table buf = some (fields ++ [summaryRecord ss es code (lookupText table code)]) := by
  match buf, h with
  | e0 :: e1 :: e2 :: e3 :: e4 :: rest, _ =>
    exact ⟨[_, _, _, _], e0.ss, (rest.getLastD e4).es, e3.value, fun _ => rfl⟩

/-- A port record with `an_known` cleared. -/
def clearKnown (r : PortRecord) : PortRecord := { r with ann := { r.ann with known := false } }

/-- The description is not in the port encoding, and the table is only in `an_known`: with that bit cleared the records
of one packet under two tables are the same (R55, R64). -/
theorem map_clearKnown_portRecord (fields : List Annotation) (ss es : Offset) (code : Byte) (d d' : String)
    (table table' : CmdTable) (st : Status) :
    ((fields ++ [summaryRecord ss es code d]).map (portRecord table st)).map clearKnown =
      ((fields ++ [summaryRecord ss es code d']).map (portRecord table' st)).map clearKnown := by
  simp only [List.map_append, List.map_map, List.map_cons, List.map_nil]
  rfl

end Sys2Proof.Machine
end

section
/-! The statements of `40_command_table.md`. -/

namespace Sys2Proof.Machine

/-- Settles O14: the table's search finds the first pair of the code, or none. -/
theorem lookupGivesTheEntryOrUnhandled : Obligations.LookupGivesTheEntryOrUnhandled := by
  intro code s
  refine ⟨fun before after text htable hbefore => ?_, fun habsent => ?_⟩
  · have hentry : tableEntry s.cmdTable code = some text := by rw [htable, tableEntry_first hbefore]
    obtain ⟨htext, hknown⟩ := lookup_some hentry
    exact ⟨hentry, by rw [exec_lookup, htext, hknown, setResult]⟩
  · have hentry := tableEntry_absent habsent
    obtain ⟨htext, hknown⟩ := lookup_none hentry
    exact ⟨hentry, by rw [exec_lookup, htext, hknown, setResult, Config.fallbackDesc]⟩

/-- Settles O26: the packet completes under both tables, and its records share the header fields and all of the summary
but the description. -/
theorem unknownCommandIsNoError : Obligations.UnknownCommandIsNoError := by
  intro s ev table hs hq
  obtain ⟨hheader, hcell⟩ := hs.count_bounds_of_last hq
  have hlen : Config.minPkt ≤ (s.buf ++ [entryOf ev]).length := by
    rw [List.length_append]
    exact Nat.succ_le_succ hheader
  obtain ⟨fields, ss, es, code, hanns⟩ := packetAnnotations_eq_fields_append_summary hlen
  refine ⟨_, _, exec_acceptLast_next.mpr ⟨hs.mode, hq, hcell, _, hanns s.cmdTable, rfl⟩,
    exec_acceptLast_next.mpr ⟨hs.mode, hq, hcell, _, hanns table, rfl⟩, rfl, rfl, rfl, ?_, ?_, ?_⟩
  · simp only [completed_annotations, List.map_append, List.map_cons, List.map_nil]
    rfl
  · simp only [completed_annotations, ← List.append_assoc, List.dropLast_concat]
  · have hrecords := map_clearKnown_portRecord fields ss es code (lookupText s.cmdTable code) (lookupText table code)
      s.cmdTable table (statusOf (values (s.buf ++ [entryOf ev])))
    exact List.map_append.trans ((congrArg _ hrecords).trans List.map_append.symm)

/-- Settles O32: what `LOOKUP` gives back reads only the table, and no operation writes the table. -/
theorem lookupIsPure : Obligations.LookupIsPure := by
  have agree : ∀ (code : Byte) (s t : State), s.cmdTable = t.cmdTable → ∃ u v : State,
      exec (.lookup code) s = .next u ∧ exec (.lookup code) t = .next v ∧ u.fnResult = v.fnResult :=
    fun code s t htable => ⟨_, _, exec_lookup code s, exec_lookup code t, by simp [htable]⟩
  exact ⟨agree, fun i code s t h => agree code s t (exec_static h).1.symm⟩

end Sys2Proof.Machine
end

section
/-! What each operation of the framer answers under its condition, the three stored states as conditions on count and
length, and a packet that is still arriving. -/

namespace Sys2Proof.Machine

/-! ## Fields and counts -/

@[simp] theorem appendEntry_count (e : Entry) (s : State) : (appendEntry e s).count = s.count + 1 :=
  List.length_append

@[simp] theorem setLength_count (v : Byte) (s : State) : (setLength v s).count = s.count := rfl

@[simp] theorem completed_statuses (ev : Event) (anns : List Annotation) (s : State) :
    (completed ev anns s).statuses = s.statuses ++ [statusOf (values (s.buf ++ [entryOf ev]))] := rfl

/-- The length is the byte plus 5, exact in 9 bits (R48, R66). -/
theorem totalLength_toNat (v : Byte) : (totalLength v).toNat = v.toNat + 5 := by
  have hbyte := v.isLt
  simp only [totalLength, zext9, Config.overhead, BitVec.toNat_add, BitVec.toNat_setWidth, BitVec.toNat_ofNat]
  omega

/-- A buffer of one byte more has that byte's value last (R78). -/
theorem values_concat (buf : List Entry) (e : Entry) : values (buf ++ [e]) = values buf ++ [e.value] :=
  List.map_append

/-! ## The stored states -/

/-- LEN_PENDING is one byte held and no length (R13). -/
theorem stored_lenPending_iff {s : State} :
    s.stored = some .lenPending ↔ s.count = 1 ∧ s.expectedLength = 0 := by
  unfold State.stored
  by_cases h0 : s.count = 0 ∧ s.expectedLength = 0
  · simp [h0]
  by_cases h1 : s.count = 1 ∧ s.expectedLength = 0
  · simp [h1]
  · rw [if_neg h0, if_neg h1]
    simp only [h1, iff_false]
    split <;> simp

/-- ACCUMULATING is at least two bytes held, fewer than a length of 5 to 260 (R13). -/
theorem stored_accumulating_iff {s : State} :
    s.stored = some .accumulating ↔
      2 ≤ s.count ∧ s.count < s.expectedLength.toNat ∧ 5 ≤ s.expectedLength.toNat ∧
        s.expectedLength.toNat ≤ 260 := by
  unfold State.stored
  by_cases h0 : s.count = 0 ∧ s.expectedLength = 0
  · simp [h0]
  by_cases h1 : s.count = 1 ∧ s.expectedLength = 0
  · simp [h1]
  · rw [if_neg h0, if_neg h1]
    simp

/-! ## What R14 bounds -/

/-- From two bytes on the length is 5 to 260 (R14). -/
theorem State.FramerInv.length_bounds {s : State} (hs : s.FramerInv) (h2 : 2 ≤ s.count) :
    5 ≤ s.expectedLength.toNat ∧ s.expectedLength.toNat ≤ 260 := by
  have hlen := hs.lengthByte _ (List.getElem?_eq_getElem h2)
  have hbyte := s.buf[1].value.isLt
  omega

/-- Between transaction steps there is a cell for the next byte (R32). -/
theorem State.FramerInv.count_lt_bufDepth {s : State} (hs : s.FramerInv) : s.count < Config.bufDepth := by
  unfold Config.bufDepth
  by_cases h2 : 2 ≤ s.count
  · have hbelow := hs.below h2
    have hlen := hs.length_bounds h2
    omega
  · omega

/-! ## The records of a packet -/

/-- The record of a header field (R80). -/
def headerRecord (cls : AnnotationClass) (e : Entry) : Annotation :=
  { ss := e.ss, es := e.es, cls := cls, label := .field e.value }

/-- The records of a packet by its header entries and its last entry (R80, R81). -/
theorem packetAnnotations_concat (table : CmdTable) (e0 e1 e2 e3 last : Entry) (rest : List Entry) :
    packetAnnotations table (e0 :: e1 :: e2 :: e3 :: (rest ++ [last])) =
      some [headerRecord .destination e0, headerRecord .length e1, headerRecord .source e2,
        headerRecord .commandHeader e3, summaryRecord e0.ss last.es e3.value (lookupText table e3.value)] := by
  cases rest with
  | nil => rfl
  | cons e4 rest =>
    rw [List.cons_append, packetAnnotations, List.getLastD_concat]
    rfl

/-- A packet that is interpreted has five records (R84). -/
theorem packetAnnotations_length {table : CmdTable} {buf : List Entry} {anns : List Annotation}
    (h : packetAnnotations table buf = some anns) : anns.length = 5 := by
  unfold packetAnnotations at h
  split at h
  · cases h
    rfl
  · cases h

/-! ## What a delivery performs -/

/-- `IGNORE` answers the state it is given (R70). -/
theorem exec_ignore (ev : Event) (s : State) : exec (.ignore ev) s = .next s := rfl

/-- Wires that decode to an operation perform it (R47). -/
theorem deliver_of_decode {w : EventWord} {s : State} {i : Instr} (h : decode s.subcase w = .ok i) :
    deliver w s = exec i s := by
  rw [deliver, h]
  rfl

/-- The last byte completes a packet whose records are defined (R69). -/
theorem State.FramerInv.exists_records {s : State} (hs : s.FramerInv) (hq : s.subcase = some .last) (e : Entry) :
    ∃ anns, packetAnnotations s.cmdTable (s.buf ++ [e]) = some anns := by
  obtain ⟨hheader, -⟩ := hs.count_bounds_of_last hq
  have hlen : Config.minPkt ≤ (s.buf ++ [e]).length := by
    rw [List.length_append]
    exact Nat.succ_le_succ hheader
  obtain ⟨fields, ss, es, code, hanns⟩ := packetAnnotations_eq_fields_append_summary hlen
  exact ⟨_, hanns s.cmdTable⟩

/-- A data event in a state with nothing held is appended (R67). -/
theorem State.FramerInv.transact_dst {s : State} (hs : s.FramerInv) (hq : s.subcase = some .dst) (ev : Event) :
    transact false { kind := .data, ev := ev } s = .next (appendEntry (entryOf ev) s) :=
  (transact_data hq ev).trans (exec_acceptDst_next.mpr ⟨hs.mode, hq, hs.count_lt_bufDepth, rfl⟩)

/-- A data event in a state with one byte held is appended and sets the length (R66). -/
theorem State.FramerInv.transact_len {s : State} (hs : s.FramerInv) (hq : s.subcase = some .len) (ev : Event) :
    transact false { kind := .data, ev := ev } s = .next (setLength ev.value (appendEntry (entryOf ev) s)) :=
  (transact_data hq ev).trans (exec_acceptLen_next.mpr ⟨hs.mode, hq, hs.count_lt_bufDepth, rfl⟩)

/-- A data event after the second that does not complete the packet is appended (R68). -/
theorem State.FramerInv.transact_body {s : State} (hs : s.FramerInv) (hq : s.subcase = some .body) (ev : Event) :
    transact false { kind := .data, ev := ev } s = .next (appendEntry (entryOf ev) s) :=
  (transact_data hq ev).trans (exec_acceptBody_next.mpr ⟨hs.mode, hq, hs.count_lt_bufDepth, rfl⟩)

/-- A data event that completes the packet emits its records and drains the framer (R69). -/
theorem State.FramerInv.transact_last {s : State} (hs : s.FramerInv) (hq : s.subcase = some .last) {ev : Event}
    {anns : List Annotation} (hanns : packetAnnotations s.cmdTable (s.buf ++ [entryOf ev]) = some anns) :
    transact false { kind := .data, ev := ev } s = .next (completed ev anns s) :=
  (transact_data hq ev).trans
    (exec_acceptLast_next.mpr ⟨hs.mode, hq, hs.count_lt_bufDepth, anns, hanns, rfl⟩)

/-- A data event in a state that meets R14 is accepted (R65). -/
theorem State.FramerInv.transact_data_isNext {s : State} (hs : s.FramerInv) (ev : Event) :
    ∃ t, transact false { kind := .data, ev := ev } s = .next t := by
  obtain ⟨q, hq⟩ := hs.exists_subcase
  cases q with
  | dst => exact ⟨_, hs.transact_dst hq ev⟩
  | len => exact ⟨_, hs.transact_len hq ev⟩
  | body => exact ⟨_, hs.transact_body hq ev⟩
  | last =>
    obtain ⟨anns, hanns⟩ := hs.exists_records hq (entryOf ev)
    exact ⟨_, hs.transact_last hq hanns⟩

/-! ## A packet that is still arriving -/

/-- These events, taken from EMPTY, do not complete a packet (R73). -/
def openPacket (evs : List Event) : Prop := ∀ l, evs[1]? = some l → evs.length < l.value.toNat + 5

/-- The length the framer holds after these events of one packet (R66). -/
def heldLength (evs : List Event) : Len :=
  match evs[1]? with
  | some l => totalLength l.value
  | none => 0

/-- `s` with these events of one packet held and their length. -/
def withHeld (evs : List Event) (s : State) : State :=
  { s with buf := evs.map entryOf, expectedLength := heldLength evs }

@[simp] theorem withHeld_count (evs : List Event) (s : State) : (withHeld evs s).count = evs.length :=
  List.length_map entryOf

@[simp] theorem withHeld_buf (evs : List Event) (s : State) : (withHeld evs s).buf = evs.map entryOf := rfl

@[simp] theorem withHeld_expectedLength (evs : List Event) (s : State) :
    (withHeld evs s).expectedLength = heldLength evs := rfl

/-- EMPTY holds no event (R13). -/
theorem withHeld_nil {s : State} (h : s.isEmpty) : withHeld [] s = s := by
  obtain ⟨hbuf, hlen⟩ := h
  cases s
  subst hbuf hlen
  rfl

/-- With fewer than two events held there is no length (R14). -/
theorem heldLength_of_lt_two {evs : List Event} (h : evs.length < 2) : heldLength evs = 0 := by
  rw [heldLength, List.getElem?_eq_none (by omega)]

/-- The second event gives the length (R66). -/
theorem heldLength_of_second {evs : List Event} {l : Event} (h : evs[1]? = some l) :
    heldLength evs = totalLength l.value := by
  rw [heldLength, h]

/-- An event after the second leaves the length (R66). -/
theorem heldLength_concat {evs : List Event} (z : Event) (h : 2 ≤ evs.length) :
    heldLength (evs ++ [z]) = heldLength evs := by
  rw [heldLength, heldLength, List.getElem?_append_left h]

/-- An open packet is open without its last event. -/
theorem openPacket_of_concat {evs : List Event} {z : Event} (h : openPacket (evs ++ [z])) : openPacket evs := by
  intro l hl
  have hlt := h l (List.getElem?_append_left (List.getElem?_eq_some_iff.mp hl).1 ▸ hl)
  rw [List.length_append] at hlt
  omega

/-- A framer that holds an open packet meets R14. -/
theorem withHeld_framerInv {evs : List Event} {s : State} (hopen : openPacket evs) (hmode : s.csumMode = .csum8) :
    (withHeld evs s).FramerInv := by
  have length_of : ∀ {l}, evs[1]? = some l → (heldLength evs).toNat = l.value.toNat + 5 := fun hl => by
    rw [heldLength_of_second hl, totalLength_toNat]
  have second : 2 ≤ evs.length → ∃ l, evs[1]? = some l := fun h => ⟨_, List.getElem?_eq_getElem h⟩
  refine ⟨?_, ?_, ?_, hmode⟩
  · rw [State.lengthKnownFromTwo, withHeld_count]
    refine ⟨heldLength_of_lt_two, fun h0 => ?_⟩
    by_contra h2
    obtain ⟨l, hl⟩ := second (by omega)
    have hlen := length_of hl
    rw [show heldLength evs = 0 from h0] at hlen
    exact absurd hlen (by simp)
  · intro e he
    obtain ⟨l, hl, rfl⟩ : ∃ l, evs[1]? = some l ∧ entryOf l = e := by simpa using he
    exact length_of hl
  · intro h2
    rw [withHeld_count] at h2 ⊢
    obtain ⟨l, hl⟩ := second h2
    exact (length_of hl).symm ▸ hopen l hl

/-- A data event that leaves the packet open is held with the others (R66 to R68). -/
theorem transact_withHeld {evs : List Event} {z : Event} {s : State} (hopen : openPacket (evs ++ [z]))
    (hmode : s.csumMode = .csum8) :
    transact false { kind := .data, ev := z } (withHeld evs s) = .next (withHeld (evs ++ [z]) s) := by
  have hs := withHeld_framerInv (openPacket_of_concat hopen) hmode
  match evs with
  | [] => exact hs.transact_dst rfl z
  | [_] => exact hs.transact_len rfl z
  | a :: l :: rest =>
    have hlt := hopen l rfl
    have hq : (withHeld (a :: l :: rest) s).subcase = some .body := by
      rw [subcase_body, withHeld_count, withHeld_expectedLength, heldLength_of_second rfl, totalLength_toNat]
      simp only [List.length_append, List.length_cons, List.length_nil] at hlt ⊢
      omega
    rw [hs.transact_body hq, withHeld, withHeld, heldLength_concat z (by simp), List.map_append]
    rfl

/-! ## Data events one after another -/

/-- Feeding goes on from what the first event leads to. -/
theorem feed_cons {ev : Event} {s t : State} (h : transact false { kind := .data, ev := ev } s = .next t)
    (evs : List Event) : feed (ev :: evs) s = feed evs t := by
  rw [feed, List.map_cons, transactAll, dataDelivery, h]
  rfl

/-- Feeding goes on from what the events before led to. -/
theorem feed_append {evs : List Event} {s t : State} (h : feed evs s = .next t) (more : List Event) :
    feed (evs ++ more) s = feed more t := by
  induction evs generalizing s with
  | nil =>
    obtain rfl := Host.Outcome.next.inj h
    rfl
  | cons ev evs ih =>
    cases hev : transact false { kind := .data, ev := ev } s with
    | next u =>
      rw [feed_cons hev] at h
      rw [List.cons_append, feed_cons hev, ih h]
    | fault r | refused r =>
      rw [feed, List.map_cons, transactAll, dataDelivery, hev] at h
      cases h

/-- One event fed is one step. -/
theorem feed_singleton {ev : Event} {s t : State} (h : transact false { kind := .data, ev := ev } s = .next t) :
    feed [ev] s = .next t := feed_cons h []

/-- The events of an open packet, fed from EMPTY, are held, and nothing is emitted (R74). -/
theorem feed_openPacket {evs : List Event} {s : State} (hopen : openPacket evs) (hmode : s.csumMode = .csum8)
    (hempty : s.isEmpty) : feed evs s = .next (withHeld evs s) := by
  induction evs using List.reverseRecOn with
  | nil => rw [withHeld_nil hempty]; rfl
  | append_singleton evs z ih =>
    rw [feed_append (ih (openPacket_of_concat hopen)), feed_singleton (transact_withHeld hopen hmode)]

/-- The records of a whole packet's events are those of its buffer (R80, R81). -/
theorem packetAnnotations_eventAnnotations {evs : List Event} (table : CmdTable) (h : Config.minPkt ≤ evs.length) :
    packetAnnotations table (evs.map entryOf) = some (eventAnnotations table evs) := by
  obtain ⟨fields, ss, es, code, hanns⟩ :=
    packetAnnotations_eq_fields_append_summary (h.trans_eq (List.length_map entryOf).symm)
  rw [eventAnnotations, hanns]

/-- `s` with the records of this packet emitted and nothing held (R75). -/
def withPacket (evs : List Event) (s : State) : State :=
  { s with
    buf := []
    expectedLength := 0
    annotations := s.annotations ++ eventAnnotations s.cmdTable evs
    statuses := s.statuses ++ [eventStatus evs]
    pending := s.pending ++ eventPortRecords s.cmdTable evs }

/-- The data event that completes the packet emits its records and leaves nothing held (R69). -/
theorem transact_completes {evs : List Event} {l z : Event} {s : State} (hmode : s.csumMode = .csum8)
    (hl : evs[1]? = some l) (hlen : evs.length + 1 = l.value.toNat + 5) :
    transact false { kind := .data, ev := z } (withHeld evs s) = .next (withPacket (evs ++ [z]) s) := by
  have hopen : openPacket evs := fun l' hl' => by
    obtain rfl := Option.some.inj (hl.symm.trans hl')
    omega
  have hq : (withHeld evs s).subcase = some .last := by
    rw [subcase_last, withHeld_count, withHeld_expectedLength, heldLength_of_second hl, totalLength_toNat]
    exact ⟨(List.getElem?_eq_some_iff.mp hl).1, hlen⟩
  have hbuf : (evs ++ [z]).map entryOf = evs.map entryOf ++ [entryOf z] := List.map_append
  have hmin : Config.minPkt ≤ (evs ++ [z]).length := by
    rw [List.length_append, List.length_singleton, hlen]
    exact Nat.le_add_left _ _
  have hanns := packetAnnotations_eventAnnotations s.cmdTable hmin
  rw [hbuf] at hanns
  rw [(withHeld_framerInv hopen hmode).transact_last hq hanns, withPacket, eventPortRecords, eventStatus, hbuf]
  rfl

/-- The events of a whole packet, fed from EMPTY, emit its records and lead back to EMPTY (R75). -/
theorem feed_packet {evs : List Event} {l : Event} {s : State} (hmode : s.csumMode = .csum8) (hempty : s.isEmpty)
    (hl : evs[1]? = some l) (hlen : evs.length = l.value.toNat + 5) : feed evs s = .next (withPacket evs s) := by
  induction evs using List.reverseRecOn with
  | nil => cases hl
  | append_singleton evs z =>
    rw [List.length_append, List.length_singleton] at hlen
    rw [List.getElem?_append_left (by omega)] at hl
    have hopen : openPacket evs := fun l' hl' => by
      obtain rfl := Option.some.inj (hl.symm.trans hl')
      omega
    rw [feed_append (feed_openPacket hopen hmode hempty), feed_singleton (transact_completes hmode hl hlen)]

end Sys2Proof.Machine
end

section
/-! The statements of `41_framer_accept.md`. -/

namespace Sys2Proof.Machine

/-- Settles O8: EMPTY is the sub-case of `ACCEPT.DST`, which only appends. -/
theorem acceptDstBuffersTheFirstByte : Obligations.AcceptDstBuffersTheFirstByte := by
  rintro ev s hmode ⟨hbuf, hlen⟩
  have happend : appendEntry (entryOf ev) s = { s with buf := [entryOf ev] } := by simp [appendEntry, hbuf]
  have hcell : s.count < Config.bufDepth := by simp [State.count, hbuf, Config.bufDepth]
  exact ⟨exec_acceptDst_next.mpr ⟨hmode, subcase_dst.mpr hbuf, hcell, happend⟩, stored_lenPending_iff.mpr ⟨rfl, hlen⟩⟩

/-- Settles O9: `ACCEPT.LEN` sets a length that 9 bits hold, and `ACCEPT.BODY` only appends. -/
theorem acceptLenSetsTheLength : Obligations.AcceptLenSetsTheLength := by
  refine ⟨fun ev s e0 hmode hbuf => ?_, fun ev s t h => ?_⟩
  · have hone : s.count = 1 := by simp [State.count, hbuf]
    have hcell : s.count < Config.bufDepth := by simp [hone, Config.bufDepth]
    have htwo : (setLength ev.value (appendEntry (entryOf ev) s)).count = 2 := by simp [hone]
    have hlen : (setLength ev.value (appendEntry (entryOf ev) s)).expectedLength.toNat = ev.value.toNat + 5 :=
      totalLength_toNat ev.value
    refine ⟨_, exec_acceptLen_next.mpr ⟨hmode, subcase_len.mpr hone, hcell, rfl⟩, ?_, hlen, htwo, ?_⟩
    · simp [setLength, appendEntry, entryOf, hbuf]
    · have hbyte := ev.value.isLt
      rw [stored_accumulating_iff, htwo, hlen]
      omega
  · obtain ⟨-, -, -, rfl⟩ := exec_acceptBody_next.mp h
    rfl

/-- Settles O10: the condition is that of the sub-case, and one byte more stays below the length. -/
theorem acceptBodyBuffersSilently : Obligations.AcceptBodyBuffersSilently := by
  intro ev s hmode h2 hbelow hmax
  have hcell : s.count < Config.bufDepth := by
    unfold Config.bufDepth
    omega
  refine ⟨exec_acceptBody_next.mpr ⟨hmode, subcase_body.mpr ⟨h2, hbelow⟩, hcell, rfl⟩, fun hmin => ?_⟩
  change (appendEntry (entryOf ev) s).stored = some .accumulating
  rw [stored_accumulating_iff, appendEntry_count, appendEntry_expectedLength]
  omega

/-- Settles O11: the condition is that of the sub-case, and the records are those of the buffer with the byte. -/
theorem acceptLastCompletesThePacket : Obligations.AcceptLastCompletesThePacket := by
  intro ev s e0 e1 e2 e3 rest hmode hbuf hrest hmax
  have hcount : s.count = rest.length + 4 := by simp [State.count, hbuf]
  have hcell : s.count < Config.bufDepth := by
    unfold Config.bufDepth
    omega
  have hanns := packetAnnotations_concat s.cmdTable e0 e1 e2 e3 (entryOf ev) rest
  have hwhole : e0 :: e1 :: e2 :: e3 :: (rest ++ [entryOf ev]) = s.buf ++ [entryOf ev] := by rw [hbuf]; rfl
  rw [hwhole] at hanns
  refine exec_acceptLast_next.mpr ⟨hmode, subcase_last.mpr ⟨by omega, by omega⟩, hcell, _, hanns, ?_⟩
  rw [completed, values_concat]
  rfl

/-- Settles O12: the sub-case R14 gives decides which of the pseudocode's tests succeeds. -/
theorem acceptFollowsThePseudocode : Obligations.AcceptFollowsThePseudocode := by
  rintro s ⟨k, ev⟩ hs
  refine ⟨transact_reset _ s, ?_, ?_⟩
  · rintro rfl
    exact transact_other ev s
  · rintro rfl
    change transact false { kind := .data, ev := ev } s =
      if (appendEntry (entryOf ev) s).count = 2 then .next (setLength ev.value (appendEntry (entryOf ev) s))
      else if (appendEntry (entryOf ev) s).count = (appendEntry (entryOf ev) s).expectedLength.toNat then
        thenDrain (exec .interpret (appendEntry (entryOf ev) s))
      else .next (appendEntry (entryOf ev) s)
    rw [appendEntry_count, appendEntry_expectedLength]
    obtain ⟨q, hq⟩ := hs.exists_subcase
    cases q with
    | dst =>
      have hzero : s.count = 0 := List.length_eq_zero_iff.mpr (subcase_dst.mp hq)
      have hlen : s.expectedLength = 0 := hs.lengthKnown.mp (by omega)
      rw [hs.transact_dst hq, if_neg (by omega), if_neg (by simp [hzero, hlen])]
    | len =>
      rw [hs.transact_len hq, if_pos (by rw [subcase_len.mp hq])]
    | body =>
      obtain ⟨h2, hbelow⟩ := subcase_body.mp hq
      rw [hs.transact_body hq, if_neg (by omega), if_neg (by omega)]
    | last =>
      obtain ⟨h2, hlast⟩ := subcase_last.mp hq
      obtain ⟨anns, hanns⟩ := hs.exists_records hq (entryOf ev)
      have hinterpret : exec .interpret (appendEntry (entryOf ev) s) =
          .next (emit anns (statusOf (values (s.buf ++ [entryOf ev]))) (appendEntry (entryOf ev) s)) :=
        exec_interpret_next.mpr ⟨hs.mode, (appendEntry_count _ s).trans hlast, anns, hanns, rfl⟩
      rw [hs.transact_last hq hanns, if_neg (by omega), if_pos hlast, hinterpret]
      rfl

/-- Settles O39: each stored state fixes the sub-case, and so which of the four accepts the byte. -/
theorem storedStateTransitions : Obligations.StoredStateTransitions := by
  rintro s rst ⟨k, ev⟩ hs
  cases rst with
  | true =>
    exact ⟨resetFramer s, exec_reset s, fun _ => ⟨stored_empty_iff.mpr ⟨rfl, rfl⟩, rfl, rfl⟩, nofun, nofun⟩
  | false =>
    cases k with
    | other => exact ⟨s, exec_ignore ev s, nofun, fun _ _ => ⟨rfl, rfl, rfl⟩, nofun⟩
    | data =>
      obtain ⟨t, ht⟩ := hs.transact_data_isNext ev
      have is_t : ∀ {u}, transact false { kind := .data, ev := ev } s = .next u → t = u :=
        fun hu => Host.Outcome.next.inj (ht.symm.trans hu)
      refine ⟨t, ht, nofun, nofun, fun _ _ => ⟨fun h => ?_, fun h => ?_, fun h hbelow => ?_, fun h hlast => ?_⟩⟩
      · obtain ⟨hbuf, hlen⟩ := stored_empty_iff.mp h
        obtain rfl := is_t (hs.transact_dst (subcase_dst.mpr hbuf) ev)
        exact ⟨stored_lenPending_iff.mpr ⟨by simp [State.count, hbuf], hlen⟩, rfl, rfl⟩
      · obtain ⟨hone, -⟩ := stored_lenPending_iff.mp h
        obtain rfl := is_t (hs.transact_len (subcase_len.mpr hone) ev)
        have hbyte := ev.value.isLt
        refine ⟨?_, totalLength_toNat ev.value, by simp [hone], rfl, rfl⟩
        rw [stored_accumulating_iff, setLength_expectedLength, totalLength_toNat, setLength_count, appendEntry_count,
          hone]
        omega
      · obtain ⟨h2, -, hbounds⟩ := stored_accumulating_iff.mp h
        obtain rfl := is_t (hs.transact_body (subcase_body.mpr ⟨h2, hbelow⟩) ev)
        refine ⟨?_, appendEntry_count _ s, rfl, rfl⟩
        rw [stored_accumulating_iff, appendEntry_count, appendEntry_expectedLength]
        omega
      · obtain ⟨h2, -⟩ := stored_accumulating_iff.mp h
        have hq := subcase_last.mpr ⟨h2, hlast⟩
        obtain ⟨anns, hanns⟩ := hs.exists_records hq (entryOf ev)
        obtain rfl := is_t (hs.transact_last hq hanns)
        refine ⟨stored_empty_iff.mpr ⟨rfl, rfl⟩, ?_, ?_⟩
        · rw [completed_annotations, List.length_append, packetAnnotations_length hanns]
        · rw [completed_statuses, List.length_append, List.length_singleton]

/-- Settles O49: all but the last event are held, and the last completes the packet they are. -/
theorem packetReturnsToEmpty : Obligations.PacketReturnsToEmpty := by
  intro s evs l hmode hempty hl hlen
  rw [feed_packet hmode hempty hl hlen, withPacket, ← hempty.1, ← hempty.2]

/-- Settles O6: `RESET` answers the state it clears, and `rst = 1` selects it. -/
theorem resetClearsTheFramer : Obligations.ResetClearsTheFramer := fun s =>
  ⟨exec_reset s, stored_empty_iff.mpr ⟨rfl, rfl⟩, fun _ hr => deliver_of_decode (decode_reset _ hr)⟩

/-- Settles O7: `IGNORE` answers the state it is given, and a non-data event without `rst` selects it. -/
theorem ignoreHasNoEffect : Obligations.IgnoreHasNoEffect := fun s =>
  ⟨fun ev => exec_ignore ev s, fun _ hr hk => (deliver_of_decode (decode_other _ hr hk)).trans (exec_ignore _ s)⟩

end Sys2Proof.Machine
end

section
/-! The records of a packet as output tuples and in class order, and the deliveries that emit nothing. -/

namespace Sys2Proof.Machine

/-- The output tuple of a header-field record: its text is the class's field name and the decimal value (R51, R53). -/
theorem annotationTuple_headerRecord (fmt : Byte → String → String) (cls : AnnotationClass) (e : Entry) :
    annotationTuple fmt (headerRecord cls e) =
      (e.ss, e.es, (classIndex cls).toNat, [fieldName cls ++ ": " ++ dec e.value]) := by
  rw [annotationTuple, labelText_field fmt (v := e.value) rfl]
  rfl

/-- The output tuple of a summary record: its text is the format's (R51, R54). -/
theorem annotationTuple_summaryRecord (fmt : Byte → String → String) (ss es : Offset) (code : Byte)
    (description : String) :
    annotationTuple fmt (summaryRecord ss es code description) = (ss, es, 6, [fmt code description]) := by
  rw [annotationTuple, labelText_summary fmt (c := code) (d := description) rfl]
  rfl

/-- A packet's records are of the classes 0, 1, 2, 3 and 6, in that order (R84). -/
theorem packetAnnotations_classes {table : CmdTable} {buf : List Entry} {anns : List Annotation}
    (h : packetAnnotations table buf = some anns) : anns.map (fun a => classIndex a.cls) = recordClasses := by
  unfold packetAnnotations at h
  split at h
  · cases h
    rfl
  · cases h

/-- A reset, a non-data event and a data event that does not complete a packet emit nothing, in any state (R84). -/
theorem transact_emits_nothing {rst : Bool} {e : InEvent} {s t : State} (h : transact rst e s = .next t)
    (hsilent : rst = true ∨ e.kind = .other ∨ s.subcase ≠ some .last) :
    t.annotations = s.annotations ∧ t.statuses = s.statuses := by
  obtain ⟨k, ev⟩ := e
  cases rst with
  | true =>
    obtain rfl := Host.Outcome.next.inj h
    exact ⟨rfl, rfl⟩
  | false =>
    cases k with
    | other =>
      obtain rfl := Host.Outcome.next.inj h
      exact ⟨rfl, rfl⟩
    | data =>
      cases hq : s.subcase with
      | none =>
        rw [transact_data_none hq] at h
        cases h
      | some q =>
        rw [transact_data hq] at h
        cases q with
        | dst =>
          obtain ⟨-, -, -, rfl⟩ := exec_acceptDst_next.mp h
          exact ⟨rfl, rfl⟩
        | len =>
          obtain ⟨-, -, -, rfl⟩ := exec_acceptLen_next.mp h
          exact ⟨rfl, rfl⟩
        | body =>
          obtain ⟨-, -, -, rfl⟩ := exec_acceptBody_next.mp h
          exact ⟨rfl, rfl⟩
        | last => simp [hq] at hsilent

end Sys2Proof.Machine
end

section
/-! The statements of `42_packet_interpretation.md`. -/

namespace Sys2Proof.Machine

/-- Settles O13: the records are those of the header entries and the last entry, and each record's text follows from
its class. -/
theorem interpretEmitsTheRecords : Obligations.InterpretEmitsTheRecords := by
  intro s e0 e1 e2 e3 last mid hmode hbuf hwhole
  have hanns := packetAnnotations_concat s.cmdTable e0 e1 e2 e3 last mid
  rw [← hbuf] at hanns
  refine ⟨_, statusOf (values s.buf), ?_, rfl, verdict_iff _,
    exec_interpret_next.mpr ⟨hmode, hwhole, _, hanns, rfl⟩⟩
  obtain ⟨hdst, hlen, hsrc, hcmd⟩ := fieldName_colon
  simp only [List.map_cons, List.map_nil, annotationTuple_headerRecord, annotationTuple_summaryRecord,
    hdst, hlen, hsrc, hcmd]
  rfl

/-- Settles O24: the completing step is `ACCEPT.LAST` on a packet whose records are defined, and no other delivery
emits. -/
theorem outputsOfEachStep : Obligations.OutputsOfEachStep := by
  rintro s t rst ⟨k, ev⟩ hs h
  refine ⟨?_, transact_emits_nothing h⟩
  rintro rfl rfl hq
  obtain ⟨anns, hanns⟩ := hs.exists_records hq (entryOf ev)
  obtain rfl := Host.Outcome.next.inj (h.symm.trans (hs.transact_last hq hanns))
  refine ⟨⟨anns, completed_annotations ev anns s, packetAnnotations_classes hanns⟩, ?_⟩
  rw [completed_statuses, values_concat]
  rfl

end Sys2Proof.Machine
end

section
/-! The checksum functions in the library's words: a sum of natural numbers, a left fold and an iterated round. -/

namespace Sys2Proof.Machine

/-! ## The function rows -/

/-- `CSUM8` as a row writes its value to the result and nothing else (R88). -/
theorem exec_csum8 (bs : List Byte) (s : State) :
    exec (.csum8 bs) s = .next (setResult (.byte (csum8 bs)) s) := rfl

/-- `CRC16` as a row writes its value to the result and nothing else (R92). -/
theorem exec_crc16 (bs : List Byte) (s : State) :
    exec (.crc16 bs) s = .next (setResult (.word (crc16 bs)) s) := rfl

/-! ## The sum -/

/-- `CSUM8` from an accumulator adds the bytes as natural numbers and reduces once, modulo 256 (R88). -/
theorem toNat_csum8From (acc : Byte) (bs : List Byte) :
    (csum8From acc bs).toNat = (acc.toNat + (bs.map BitVec.toNat).sum) % 256 := by
  induction bs generalizing acc with
  | nil => exact (Nat.mod_eq_of_lt acc.isLt).symm
  | cons b rest ih =>
    rw [csum8From, ih, BitVec.toNat_add, Nat.mod_add_mod, List.map_cons, List.sum_cons, Nat.add_assoc]

/-- `CSUM8` is the sum of the bytes as natural numbers, modulo 256 (R88). -/
theorem toNat_csum8 (bs : List Byte) : (csum8 bs).toNat = (bs.map BitVec.toNat).sum % 256 := by
  simp [csum8, toNat_csum8From]

/-! ## The CRC -/

/-- The rounds of the CRC are the one round, iterated (R92). -/
theorem crcRounds_eq_iterate (n : Nat) (acc : Crc) : crcRounds n acc = crcRound^[n] acc := by
  induction n generalizing acc with
  | zero => rfl
  | succ k ih => rw [crcRounds, ih, Function.iterate_succ_apply]

/-- A byte of the CRC is folded into bits 15:8, and the round is iterated 8 times (R92). -/
theorem crcByte_eq_iterate (acc : Crc) (b : Byte) :
    crcByte acc b = crcRound^[8] (acc ^^^ (b.setWidth 16 <<< 8)) :=
  crcRounds_eq_iterate 8 _

/-- `CRC16` from an accumulator is the left fold of the byte step (R92). -/
theorem crc16From_eq_foldl (acc : Crc) (bs : List Byte) : crc16From acc bs = bs.foldl crcByte acc := by
  induction bs generalizing acc with
  | nil => rfl
  | cons b rest ih => rw [crc16From, ih, List.foldl_cons]

/-- `CRC16` is the left fold of the byte step from the initial value (R92). -/
theorem crc16_eq_foldl (bs : List Byte) : crc16 bs = bs.foldl crcByte Config.crcInit :=
  crc16From_eq_foldl _ bs

end Sys2Proof.Machine
end

section
/-! The statements of `43_checksums.md`. -/

namespace Sys2Proof.Machine

/-- Settles O15: reducing modulo 256 at every addition, as the accumulator does, gives the sum reduced once. -/
theorem csum8IsTheSumModulo256 : Obligations.Csum8IsTheSumModulo256 := fun bs s =>
  ⟨csum8 bs, toNat_csum8 bs, exec_csum8 bs s⟩

/-- Settles O16: the model's recursions on the bytes and on the rounds are the procedure's fold and its iterated
round. -/
theorem crc16FollowsTheProcedure : Obligations.Crc16FollowsTheProcedure := by
  intro bs s
  rw [exec_crc16, crc16_eq_foldl, funext₂ crcByte_eq_iterate]
  rfl

end Sys2Proof.Machine
end

section
/-! What of a packet's outputs depends on its last byte's value: the status alone. -/

namespace Sys2Proof.Machine

/-- After the header the last entry gives a packet's records its end offset and nothing else: its value is in none of
them (R80, R81). -/
theorem packetAnnotations_concat_congr {buf : List Entry} {e e' : Entry} (table : CmdTable)
    (hheader : Config.hdrLen ≤ buf.length) (hes : e.es = e'.es) :
    packetAnnotations table (buf ++ [e]) = packetAnnotations table (buf ++ [e']) := by
  match buf, hheader with
  | e0 :: e1 :: e2 :: e3 :: rest, _ =>
    simp only [List.cons_append, packetAnnotations_concat, hes]

/-- The annotation port carries the record alone, whatever status rides beside it (R25, R55). -/
@[simp] theorem portRecord_ann (table : CmdTable) (st : Status) (a : Annotation) :
    (portRecord table st a).ann = annPort table a := rfl

/-- A sum that is not 0 is reported as it is, with `ok = 0` (R79, R85, R101). -/
theorem statusOf_of_mismatch {vals : List Byte} (h : csum8 vals ≠ 0) :
    statusOf vals = { csum := csum8 vals, ok := false } := by
  rw [statusOf, verdict, decide_eq_false h]

/-- Two events that complete a packet with the same records leave states that differ only in the status records (R69,
R77). -/
theorem completed_with_status (ev ev' : Event) (anns : List Annotation) (s : State) :
    { completed ev anns s with
      statuses := (completed ev' anns s).statuses
      pending := (completed ev' anns s).pending } = completed ev' anns s := rfl

end Sys2Proof.Machine
end

section
/-! The statement of `60_exceptions.md`. -/

namespace Sys2Proof.Machine

/-- Settles O25: the packet completes with either byte and the same records, for the checksum byte's value is read by
the status alone. -/
theorem checksumMismatchIsOnlyReported : Obligations.ChecksumMismatchIsOnlyReported := by
  intro s ev c hs hq sum hsum
  obtain ⟨hheader, hcell⟩ := hs.count_bounds_of_last hq
  obtain ⟨anns, hanns⟩ := hs.exists_records hq (entryOf ev)
  have hanns' : packetAnnotations s.cmdTable (s.buf ++ [entryOf { ev with value := c }]) = some anns := by
    rw [← hanns]
    exact packetAnnotations_concat_congr s.cmdTable hheader rfl
  have hstatus : statusOf (values (s.buf ++ [entryOf ev])) = { csum := sum, ok := false } := by
    rw [values_concat]
    exact statusOf_of_mismatch hsum
  refine ⟨completed ev anns s, completed { ev with value := c } anns s,
    exec_acceptLast_next.mpr ⟨hs.mode, hq, hcell, anns, hanns, rfl⟩,
    exec_acceptLast_next.mpr ⟨hs.mode, hq, hcell, anns, hanns', rfl⟩,
    rfl, ⟨rfl, rfl⟩, ⟨rfl, rfl⟩, ?_, completed_with_status ev _ anns s, ?_⟩
  · simp only [completed_pending, List.map_append, List.map_map, Function.comp_def, portRecord_ann]
  · rw [completed_statuses, hstatus]

end Sys2Proof.Machine
end

section
/-! The clock edge by what it delivers: nothing, a reset, an event that completes no packet, or the last byte of one. -/

namespace Sys2Proof.Machine

/-! ## The edge and its wires -/

/-- The reset wire of an edge's word is the edge's `rst` (R47). -/
@[simp] theorem Edge.word_rst (e : Edge) : e.word.rst = e.rst := selector_getElem_top e.rst e.ecw

/-- A reset edge acts whatever the handshake signals are (R126). -/
theorem Edge.acts_of_rst {e : Edge} (h : e.rst = true) (ready : Bool) : e.acts ready = true := by
  simp [Edge.acts, h]

/-- An edge without reset acts exactly when `ev_valid` and `ev_ready` are 1 (R124). -/
theorem Edge.acts_iff {e : Edge} (h : e.rst = false) {ready : Bool} :
    e.acts ready = true ↔ e.evValid = true ∧ ready = true := by
  simp [Edge.acts, h]

/-- Taking the edge from the host's list leaves `ev_ready`. -/
@[simp] theorem takeEdge_evReady (rest : List Edge) (s : State) : (takeEdge rest s).evReady = s.evReady := rfl

/-- Taking the edge from the host's list leaves the sub-case. -/
@[simp] theorem takeEdge_subcase (rest : List Edge) (s : State) : (takeEdge rest s).subcase = s.subcase := rfl

/-- With `ev_ready = 1` there is no record for the edge's transfer to take (R124). -/
theorem takeRecord_of_evReady {s : State} (h : s.evReady = true) (e : Edge) (rest : List Edge) :
    takeRecord e (takeEdge rest s) = takeEdge rest s := takeRecord_nil (evReady_iff.mp h)

/-! ## The step by the edge -/

/-- In the admitted configuration the step is the next clock edge (R22). -/
theorem step_eq_clockEdge {s : State} {e : Edge} {rest : List Edge} (hmode : s.csumMode = .csum8)
    (hedges : s.edges = e :: rest) : step s = clockEdge e (takeEdge rest s) := by
  rw [step, cycle, whenAdmitted, State.admitted, hmode, hedges]
  rfl

/-- An edge that acts delivers its word, after the receiver's transfer (R22 to R24). -/
theorem step_of_acts {s : State} {e : Edge} {rest : List Edge} (hmode : s.csumMode = .csum8)
    (hedges : s.edges = e :: rest) (hacts : e.acts s.evReady = true) :
    step s = deliverOnEdge e.word (takeRecord e (takeEdge rest s)) := by
  rw [step_eq_clockEdge hmode hedges, clockEdge, takeEdge_evReady, if_pos hacts]

/-- An edge that does not act delivers nothing: there is the receiver's transfer alone (R22 to R24). -/
theorem step_of_not_acts {s : State} {e : Edge} {rest : List Edge} (hmode : s.csumMode = .csum8)
    (hedges : s.edges = e :: rest) (hacts : ¬ e.acts s.evReady = true) :
    step s = .next (takeRecord e (takeEdge rest s)) := by
  rw [step_eq_clockEdge hmode hedges, clockEdge, takeEdge_evReady, if_neg hacts]

/-! ## What is delivered on an edge -/

/-- Wires that decode to an operation perform it on the edge, the packet it completes held (R47, R125). -/
theorem deliverOnEdge_of_decode {w : EventWord} {s : State} {i : Instr} (h : decode s.subcase w = .ok i) :
    deliverOnEdge w s = mapNext (holdPacket i s) (exec i s) := by
  rw [deliverOnEdge, h]
  rfl

/-- Changing nothing of an outcome's next state leaves the outcome. -/
theorem mapNext_id (o : Host.Outcome State Fault Refusal) : mapNext id o = o := by
  cases o <;> rfl

/-- Only `ACCEPT.LAST` leaves a packet to hold (R125). -/
theorem holdPacket_eq_id {i : Instr} (h : ∀ ev, i ≠ .acceptLast ev) (s : State) : holdPacket i s = id := by
  cases i with
  | acceptLast ev => exact absurd rfl (h ev)
  | _ => rfl

/-- Only a data event in the sub-case `last` decodes to `ACCEPT.LAST` (R47). -/
theorem last_of_decode_acceptLast {p : Option Subcase} {w : EventWord} {ev : Event}
    (h : decode p w = .ok (.acceptLast ev)) : w.kind = .data ∧ p = some .last := by
  cases hr : w.rst with
  | true => cases (decode_reset p hr).symm.trans h
  | false =>
    cases hk : w.kind with
    | other => cases (decode_other p hr hk).symm.trans h
    | data =>
      cases p with
      | none => rw [decode, EventWord.inEvent, hr, hk, select_data_none] at h; cases h
      | some q =>
        rw [decode_data q hr hk] at h
        cases q with
        | last => exact ⟨rfl, rfl⟩
        | dst | len | body => cases h

/-- Wires with `rst = 0` perform the transaction step of their event (R47, R65). -/
theorem deliver_eq_transact {w : EventWord} (hr : w.rst = false) (s : State) :
    deliver w s = transact false w.inEvent s := by
  rw [deliver, transact, decode, hr]

/-- A word that completes no packet is on the edge what it is at the transaction level (R125). -/
theorem deliverOnEdge_of_not_last {w : EventWord} {s : State}
    (h : w.kind = .other ∨ s.subcase ≠ some .last) : deliverOnEdge w s = deliver w s := by
  cases hd : decode s.subcase w with
  | error d => rw [deliverOnEdge, deliver, hd]; rfl
  | ok i =>
    have hne : ∀ ev, i ≠ .acceptLast ev := by
      rintro ev rfl
      obtain ⟨hk, hq⟩ := last_of_decode_acceptLast hd
      simp [hk, hq] at h
    rw [deliverOnEdge_of_decode hd, holdPacket_eq_id hne, mapNext_id, deliver_of_decode hd]

/-- A word that completes a packet leaves on the edge what its transaction step leaves, the packet still held
(R125). -/
theorem deliverOnEdge_of_last {w : EventWord} {s v : State} (hr : w.rst = false) (hk : w.kind = .data)
    (hq : s.subcase = some .last) (hv : transact false w.inEvent s = .next v) :
    deliverOnEdge w s = .next (holdPacket (.acceptLast w.event) s v) := by
  have hd : decode s.subcase w = .ok (.acceptLast w.event) := by rw [hq, decode_data _ hr hk]; rfl
  rw [← deliver_eq_transact hr, deliver_of_decode hd] at hv
  rw [deliverOnEdge_of_decode hd, hv, mapNext_of_next]

/-! ## The step by what is delivered -/

/-- A reset edge resets the framer, after the receiver's transfer (R126). -/
theorem step_of_rst {s : State} {e : Edge} {rest : List Edge} (hmode : s.csumMode = .csum8)
    (hedges : s.edges = e :: rest) (hr : e.rst = true) :
    step s = .next (resetFramer (takeRecord e (takeEdge rest s))) := by
  rw [step_of_acts hmode hedges (Edge.acts_of_rst hr _),
    deliverOnEdge_of_decode (decode_reset _ ((Edge.word_rst e).trans hr)), exec_reset]
  rfl

/-- An edge that delivers an event which completes no packet is the transaction step of that event (R124). -/
theorem step_of_not_last {s : State} {e : Edge} {rest : List Edge} (hmode : s.csumMode = .csum8)
    (hedges : s.edges = e :: rest) (hr : e.rst = false) (hdeliver : e.evValid = true ∧ s.evReady = true)
    (hnot : e.word.kind = .other ∨ s.subcase ≠ some .last) :
    step s = transact false e.word.inEvent (takeEdge rest s) := by
  rw [step_of_acts hmode hedges ((Edge.acts_iff hr).mpr hdeliver), takeRecord_of_evReady hdeliver.2,
    deliverOnEdge_of_not_last (takeEdge_subcase rest s ▸ hnot), deliver_eq_transact ((Edge.word_rst e).trans hr)]

/-- An edge that delivers the event which completes a packet is the transaction step of that event, the packet still
held (R124, R125). -/
theorem step_of_last {s v : State} {e : Edge} {rest : List Edge} (hmode : s.csumMode = .csum8)
    (hedges : s.edges = e :: rest) (hr : e.rst = false) (hdeliver : e.evValid = true ∧ s.evReady = true)
    (hk : e.word.kind = .data) (hq : s.subcase = some .last)
    (hv : transact false e.word.inEvent (takeEdge rest s) = .next v) :
    step s = .next (holdPacket (.acceptLast e.word.event) (takeEdge rest s) v) := by
  rw [step_of_acts hmode hedges ((Edge.acts_iff hr).mpr hdeliver), takeRecord_of_evReady hdeliver.2,
    deliverOnEdge_of_last ((Edge.word_rst e).trans hr) hk ((takeEdge_subcase rest s).trans hq) hv]

/-- The frame of an event that completes no packet, in any state: the buffer and the length are all it writes (R66 to
R68, R70). -/
theorem transact_frame_of_not_last {e : InEvent} {s t : State} (h : transact false e s = .next t)
    (hnot : e.kind = .other ∨ s.subcase ≠ some .last) :
    t = { s with buf := t.buf, expectedLength := t.expectedLength } := by
  obtain ⟨k, ev⟩ := e
  cases k with
  | other =>
    obtain rfl := Host.Outcome.next.inj h
    rfl
  | data =>
    cases hq : s.subcase with
    | none => cases (transact_data_none hq ev).symm.trans h
    | some q =>
      rw [transact_data hq] at h
      cases q with
      | dst => obtain ⟨-, -, -, rfl⟩ := exec_acceptDst_next.mp h; rfl
      | len => obtain ⟨-, -, -, rfl⟩ := exec_acceptLen_next.mp h; rfl
      | body => obtain ⟨-, -, -, rfl⟩ := exec_acceptBody_next.mp h; rfl
      | last => simp [hq] at hnot

end Sys2Proof.Machine
end

section
/-! The statements of `70_reset_and_hazards.md`. -/

namespace Sys2Proof.Machine

/-- Settles O42: `ev_ready = 1` means no record is left, so the edge's transfer takes none and the delivery acts on the
state the edge found. -/
theorem inputHandshake : Obligations.InputHandshake := by
  refine ⟨fun s => evReady_iff, fun s e rest hmode hedges hr => ⟨fun hdeliver => ?_, fun hwait => ?_⟩, ?_⟩
  · change (_ → step s = transact false e.word.inEvent (takeRecord e (takeEdge rest s))) ∧
      ∀ v, _ → _ → transact false e.word.inEvent (takeRecord e (takeEdge rest s)) = .next v →
        step s = .next (holdPacket (.acceptLast e.word.event) (takeRecord e (takeEdge rest s)) v)
    rw [takeRecord_of_evReady hdeliver.2]
    exact ⟨step_of_not_last hmode hedges hr hdeliver, fun v => step_of_last hmode hedges hr hdeliver⟩
  · refine step_of_not_acts hmode hedges fun hacts => ?_
    obtain ⟨hvalid, hready⟩ := (Edge.acts_iff hr).mp hacts
    simp [hvalid, hready] at hwait
  · intro s t e rest hs hedges hr hready hnot h
    cases hvalid : e.evValid with
    | true =>
      rw [step_of_not_last hs.mode hedges hr ⟨hvalid, hready⟩ hnot] at h
      rw [transact_frame_of_not_last h hnot]
      exact hready
    | false =>
      have hidle : ¬ e.acts s.evReady = true := by simp [Edge.acts_iff hr, hvalid]
      rw [step_of_not_acts hs.mode hedges hidle, takeRecord_of_evReady hready] at h
      obtain rfl := Host.Outcome.next.inj h
      exact hready

/-- Settles O46: a reset edge acts whatever the handshake signals are, and the framer it leaves is cleared. -/
theorem resetEdge : Obligations.ResetEdge := by
  intro s e rest hmode hedges hr
  obtain ⟨-, -, hanns, hstatuses, hrest, -⟩ := takeRecord_frame e (takeEdge rest s)
  have hpending := resetFramer_pending (takeRecord e (takeEdge rest s))
  obtain ⟨hbuf, -, hlen, -, hready, hanValid, hpkValid⟩ := reset_values_of_cleared ⟨rfl, rfl⟩ hpending
  exact ⟨_, step_of_rst hmode hedges hr, hbuf, hlen, hpending, hready, hanValid, hpkValid, hanns, hstatuses, hrest⟩

/-- Settles O48: an open packet's events are only held, and a whole packet's events emit its five records and one
status. -/
theorem nothingIsEmittedBeforeTheLastByte : Obligations.NothingIsEmittedBeforeTheLastByte := by
  intro s evs hmode hempty
  refine ⟨fun hopen => ⟨withHeld evs s, feed_openPacket hopen hmode hempty, rfl, rfl, rfl, rfl⟩,
    fun l hl hlen => ?_⟩
  have hmin : Config.minPkt ≤ evs.length := hlen ▸ Nat.le_add_left _ _
  have hanns := packetAnnotations_length (packetAnnotations_eventAnnotations s.cmdTable hmin)
  refine ⟨withPacket evs s, feed_packet hmode hempty hl hlen, ?_, ?_⟩
  · rw [withPacket, List.length_append, hanns]
  · rw [withPacket, List.length_append, List.length_singleton]

end Sys2Proof.Machine
end

section
/-! The encoder and the decoder against each other: the event on the wires of an encoded event, and the wires put
together again from what they carry. -/

namespace Sys2Proof

/-- An event that fits the ports is on its wires as it is (R45, R46). -/
theorem eventWord_event {ev : Event} (k : EventKind) (h : ev.wellFormed = true) : (eventWord k ev).event = ev := by
  obtain ⟨hss, hes⟩ := (Event.wellFormed_iff ev).mp h
  obtain ⟨-, -, haux, hvalue⟩ := fields_of_selector_ecw (w := eventWord k ev) rfl
  have hss' : (eventWord k ev).ss.toNat = ev.ss := (BitVec.toNat_ofNat _ _).trans (Nat.mod_eq_of_lt hss)
  have hes' : (eventWord k ev).es.toNat = ev.es := (BitVec.toNat_ofNat _ _).trans (Nat.mod_eq_of_lt hes)
  rw [EventWord.event, haux, hvalue, hss', hes']

/-- The word of a non-data event decodes to `IGNORE` of it, whatever the state gives (R47). -/
theorem decode_eventWord_other {ev : Event} (p : Option Subcase) (h : ev.wellFormed = true) :
    decode p (eventWord .other ev) = .ok (.ignore ev) := by
  obtain ⟨hr, hk, -, -⟩ := fields_of_selector_ecw (w := eventWord .other ev) rfl
  rw [decode_other p hr hk, eventWord_event .other h]

/-- The word of a data event decodes to the operation of the sub-case the state gives (R47). -/
theorem decode_eventWord_data {ev : Event} (q : Subcase) (h : ev.wellFormed = true) :
    decode (some q) (eventWord .data ev) = .ok (acceptInstr q ev) := by
  obtain ⟨hr, hk, -, -⟩ := fields_of_selector_ecw (w := eventWord .data ev) rfl
  rw [decode_data q hr hk, eventWord_event .data h]

/-- An encoded selector has the bits of a selector without reset of the same kind, secondary field and value, so the
selector is put together again from its fields (R45, R47). -/
theorem selector_ecw_fields {w : EventWord} (hr : w.rst = false) : selector false (ecw w.kind w.event) = w.sel := by
  have hlow : ∀ {i : Nat} (hi : i < 10), (selector false (ecw w.kind w.event))[i] = (ecw w.kind w.event)[i] :=
    fun hi => selector_getElem_low false _ hi
  ext i hi
  obtain hvalue | rfl | rfl | rfl : i < 8 ∨ i = 8 ∨ i = 9 ∨ i = 10 := by omega
  · rw [hlow (by omega), ecw_getElem_value w.kind _ hvalue]
    exact value_getElem w hvalue
  · rw [hlow (by decide), ecw_getElem_aux]
    simp [EventWord.event, aux_eq_bit]
  · rw [hlow (by decide), ecw_getElem_kind]
    cases hk : w.kind with
    | data => exact (kind_data_iff.mp hk).symm
    | other => exact (kind_other_iff.mp hk).symm
  · rw [selector_getElem_top]
    exact hr.symm

/-- Wires without reset are the wires of the event they carry (R45, R46). -/
theorem eventWord_of_fields {w : EventWord} (hr : w.rst = false) : eventWord w.kind w.event = w := by
  rw [eventWord, selector_ecw_fields hr]
  simp [EventWord.event]

/-- What a sub-case names is encoded as a data event (R47). -/
theorem encode_acceptInstr (q : Subcase) (ev : Event) : encode (acceptInstr q ev) = some (eventWord .data ev) := by
  cases q <;> rfl

/-- What a sub-case names is well formed when its event is (R46). -/
theorem acceptInstr_wellFormed (q : Subcase) (ev : Event) : (acceptInstr q ev).wellFormed = ev.wellFormed := by
  cases q <;> rfl

/-- A word with no sub-case given decodes to an operation only if it is not a data event (R47). -/
theorem decode_data_none {w : EventWord} (hr : w.rst = false) (hk : w.kind = .data) :
    decode none w = .error .noSubcase := by
  rw [decode, EventWord.inEvent, hr, hk, select_data_none]

/-- Every operation that wires decode to is a reset, the event they carry ignored, or that event accepted (R47). -/
theorem decode_cases {p : Option Subcase} {w : EventWord} {i : Instr} (h : decode p w = .ok i) :
    (w.rst = true ∧ i = .reset) ∨ (w.rst = false ∧ w.kind = .other ∧ i = .ignore w.event) ∨
      ∃ q, w.rst = false ∧ w.kind = .data ∧ p = some q ∧ i = acceptInstr q w.event := by
  have is_i : ∀ {j}, decode p w = .ok j → i = j := fun hj => Except.ok.inj (h.symm.trans hj)
  cases hr : w.rst with
  | true => exact .inl ⟨rfl, is_i (decode_reset p hr)⟩
  | false =>
    cases hk : w.kind with
    | other => exact .inr (.inl ⟨rfl, rfl, is_i (decode_other p hr hk)⟩)
    | data =>
      cases p with
      | none => cases (decode_data_none hr hk).symm.trans h
      | some q => exact .inr (.inr ⟨q, rfl, rfl, rfl, is_i (decode_data q hr hk)⟩)

/-- What wires decode to is well formed (R23, R46). -/
theorem decode_wellFormed {p : Option Subcase} {w : EventWord} {i : Instr} (h : decode p w = .ok i) :
    i.wellFormed = true := by
  obtain ⟨-, rfl⟩ | ⟨-, -, rfl⟩ | ⟨q, -, -, -, rfl⟩ := decode_cases h
  · rfl
  · exact w.event_wellFormed
  · exact (acceptInstr_wellFormed q _).trans w.event_wellFormed

/-- The selector of a data byte with `aux = 0` is the byte above `0x200` (R58). -/
theorem selector_data (v : Byte) (ss es : Offset) :
    selector false (ecw .data { aux := 0, value := v, ss := ss, es := es }) = 0x200#11 + v.setWidth 11 := by
  have h : ∀ v : Byte, BitVec.ofBool false ++ (1#1 ++ 0#1 ++ v) = 0x200#11 + v.setWidth 11 := by decide
  exact h v

/-- The selector of a data byte with `aux = 1` is the byte above `0x300` (R58). -/
theorem selector_data_aux (v : Byte) (ss es : Offset) :
    selector false (ecw .data { aux := 1, value := v, ss := ss, es := es }) = 0x300#11 + v.setWidth 11 := by
  have h : ∀ v : Byte, BitVec.ofBool false ++ (1#1 ++ 1#1 ++ v) = 0x300#11 + v.setWidth 11 := by decide
  exact h v

/-- The selector of a non-data event with no field set is 0 (R58). -/
theorem selector_other (ss es : Offset) :
    selector false (ecw .other { aux := 0, value := 0, ss := ss, es := es }) = 0x000#11 :=
  show BitVec.ofBool false ++ (0#1 ++ 0#1 ++ 0#8) = 0x000#11 from by decide

end Sys2Proof
end

section
/-! The statements on the encoder, the decoder and the script's selectors. -/

namespace Sys2Proof.Machine

/-- Settles O1: the wires of an encoded event carry its fields, and the kind and the sub-case select its operation. -/
theorem decodeOfEncodeIsTheOperation : Obligations.DecodeOfEncodeIsTheOperation := by
  intro i w hwf h
  cases i with
  | reset =>
    obtain rfl := Option.some.inj h
    exact decode_reset _ rfl
  | ignore ev =>
    obtain rfl := Option.some.inj h
    exact decode_eventWord_other _ hwf
  | acceptDst ev =>
    obtain rfl := Option.some.inj h
    exact decode_eventWord_data .dst hwf
  | acceptLen ev =>
    obtain rfl := Option.some.inj h
    exact decode_eventWord_data .len hwf
  | acceptBody ev =>
    obtain rfl := Option.some.inj h
    exact decode_eventWord_data .body hwf
  | acceptLast ev =>
    obtain rfl := Option.some.inj h
    exact decode_eventWord_data .last hwf
  | interpret | lookup | csum8 | crc16 => cases h

/-- Settles O2: the operation is the wires' event ignored or accepted, and the wires are those of their event. -/
theorem encodeOfDecodeIsTheWord : Obligations.EncodeOfDecodeIsTheWord := by
  intro p w i hr h
  refine ⟨?_, decode_wellFormed h⟩
  obtain ⟨hreset, -⟩ | ⟨-, hk, rfl⟩ | ⟨q, -, hk, -, rfl⟩ := decode_cases h
  · cases hr.symm.trans hreset
  · exact congrArg some (hk ▸ eventWord_of_fields hr)
  · exact (encode_acceptInstr q _).trans (congrArg some (hk ▸ eventWord_of_fields hr))

/-- Settles O5: each word's reset and kind bits select its row. -/
theorem selectorWordsDecode : Obligations.SelectorWordsDecode :=
  ⟨decode_reset _ rfl, decode_reset _ rfl, decode_other _ rfl rfl, decode_data .dst rfl rfl, decode_data .len rfl rfl,
    decode_data .body rfl rfl, decode_data .last rfl rfl, decode_data_none rfl rfl⟩

/-- Settles O55: a reset line is the word of `RESET`, the others the selectors of their events. -/
theorem scriptLinesSelect : Obligations.ScriptLinesSelect := by
  intro l
  cases l with
  | rst => exact ⟨fun _ => ⟨rfl, rfl⟩, fun h => absurd rfl h⟩
  | d v ss es => exact ⟨nofun, fun _ => ⟨rfl, (selector_data v ss es).symm⟩⟩
  | d1 v ss es => exact ⟨nofun, fun _ => ⟨rfl, (selector_data_aux v ss es).symm⟩⟩
  | x ss es => exact ⟨nofun, fun _ => ⟨rfl, (selector_other ss es).symm⟩⟩

end Sys2Proof.Machine
end

section
/-! Every state that meets R14 holds the events of an open packet, what the next event makes of it, and everything one
step can do. -/

namespace Sys2Proof.Machine

/-! ## R14 and the invariant where nothing is held -/

/-- A framer that holds nothing meets R14 (R14, R27). -/
theorem State.isEmpty.framerInv {s : State} (h : s.isEmpty) (hmode : s.csumMode = .csum8) : s.FramerInv := by
  obtain ⟨hbuf, hlen⟩ := h
  refine ⟨?_, ?_, ?_, hmode⟩
  · simp [State.lengthKnownFromTwo, State.count, hbuf, hlen]
  · simp [State.lengthIsSecondByte, hbuf]
  · simp [State.countBelowLength, State.count, hbuf]

/-- With nothing left to take, R14 is the whole invariant (R125). -/
theorem State.FramerInv.inv {s : State} (h : s.FramerInv) (hp : s.pending = []) : s.Inv :=
  ⟨h.lengthKnown, h.lengthByte, fun _ => h.below, h.mode, by simp [State.portShape, hp], fun hne => absurd hp hne⟩

/-- A framer that holds nothing and presents nothing meets the invariant (R27). -/
theorem State.isEmpty.inv {s : State} (h : s.isEmpty) (hmode : s.csumMode = .csum8) (hp : s.pending = []) : s.Inv :=
  (h.framerInv hmode).inv hp

/-- With nothing left to take, the invariant gives R14 (R125). -/
theorem State.Inv.framerInv {s : State} (h : s.Inv) (hp : s.pending = []) : s.FramerInv :=
  ⟨h.lengthKnown, h.lengthByte, h.below hp, h.mode⟩

/-! ## What is held is an open packet -/

/-- An event that leaves this buffer entry. -/
def entryEvent (e : Entry) : Event := { aux := 0, value := e.value, ss := e.ss, es := e.es }

/-- The entry of that event is the one it was made from. -/
theorem map_entryOf_entryEvent (buf : List Entry) : (buf.map entryEvent).map entryOf = buf := by
  rw [List.map_map]
  exact List.map_id buf

/-- Every state that meets R14 holds the events of an open packet (R13, R14). -/
theorem State.FramerInv.exists_withHeld {s : State} (hs : s.FramerInv) :
    ∃ evs, openPacket evs ∧ withHeld evs s = s := by
  refine ⟨s.buf.map entryEvent, fun l hl => ?_, ?_⟩
  · obtain ⟨e, he, rfl⟩ : ∃ e, s.buf[1]? = some e ∧ entryEvent e = l := by simpa using hl
    have hbelow := hs.below (List.getElem?_eq_some_iff.mp he).1
    rw [hs.lengthByte e he] at hbelow
    rwa [List.length_map]
  · have hlen : heldLength (s.buf.map entryEvent) = s.expectedLength := by
      obtain h2 | h2 : s.count < 2 ∨ 2 ≤ s.count := by omega
      · rw [heldLength_of_lt_two (by rwa [List.length_map]), hs.lengthKnown.mp h2]
      · have hsecond : s.buf[1]? = some s.buf[1] := List.getElem?_eq_getElem h2
        rw [heldLength_of_second (l := entryEvent s.buf[1]) (by rw [List.getElem?_map, hsecond]; rfl)]
        exact BitVec.eq_of_toNat_eq ((totalLength_toNat _).trans (hs.lengthByte _ hsecond).symm)
    rw [withHeld, map_entryOf_entryEvent, hlen]

/-- The next event of an open packet leaves it open, or is the last of its length (R65). -/
theorem openPacket_concat_or_last {evs : List Event} (hopen : openPacket evs) (z : Event) :
    openPacket (evs ++ [z]) ∨ ∃ l, evs[1]? = some l ∧ evs.length + 1 = l.value.toNat + 5 := by
  have hlength : (evs ++ [z]).length = evs.length + 1 := List.length_append
  by_cases h2 : 2 ≤ evs.length
  · have hl : evs[1]? = some evs[1] := List.getElem?_eq_getElem h2
    have hlt := hopen _ hl
    by_cases hlast : evs.length + 1 = evs[1].value.toNat + 5
    · exact .inr ⟨_, hl, hlast⟩
    · refine .inl fun l' hl' => ?_
      rw [List.getElem?_append_left h2] at hl'
      obtain rfl := Option.some.inj (hl.symm.trans hl')
      omega
  · exact .inl fun l' _ => by omega

/-- A data event in a state that meets R14 leaves the packet open, with one event more held, or completes it
(R65 to R69). -/
theorem State.FramerInv.transact_data_cases {s : State} (hs : s.FramerInv) (ev : Event) :
    ∃ evs, openPacket evs ∧ withHeld evs s = s ∧
      ((openPacket (evs ++ [ev]) ∧
          transact false { kind := .data, ev := ev } s = .next (withHeld (evs ++ [ev]) s)) ∨
        transact false { kind := .data, ev := ev } s = .next (withPacket (evs ++ [ev]) s)) := by
  obtain ⟨evs, hopen, hheld⟩ := hs.exists_withHeld
  refine ⟨evs, hopen, hheld, ?_⟩
  obtain hopen' | ⟨l, hl, hlen⟩ := openPacket_concat_or_last hopen ev
  · have h := transact_withHeld hopen' hs.mode
    rw [hheld] at h
    exact .inl ⟨hopen', h⟩
  · have h := transact_completes (z := ev) hs.mode hl hlen
    rw [hheld] at h
    exact .inr h

/-- The transaction step answers a next state that meets R14, from every state that does (R9, R14). -/
theorem State.FramerInv.transact_total {s : State} (hs : s.FramerInv) (rst : Bool) (e : InEvent) :
    ∃ t, transact rst e s = .next t ∧ t.FramerInv := by
  obtain ⟨k, ev⟩ := e
  cases rst with
  | true => exact ⟨_, exec_reset s, State.isEmpty.framerInv ⟨rfl, rfl⟩ hs.mode⟩
  | false =>
    cases k with
    | other => exact ⟨s, exec_ignore ev s, hs⟩
    | data =>
      obtain ⟨evs, -, -, ⟨hopen, h⟩ | h⟩ := hs.transact_data_cases ev
      · exact ⟨_, h, withHeld_framerInv hopen hs.mode⟩
      · exact ⟨_, h, State.isEmpty.framerInv ⟨rfl, rfl⟩ hs.mode⟩

/-- The transaction step keeps R14. -/
theorem State.FramerInv.transact_keeps {s t : State} (hs : s.FramerInv) {rst : Bool} {e : InEvent}
    (h : transact rst e s = .next t) : t.FramerInv := by
  obtain ⟨u, hu, hinv⟩ := hs.transact_total rst e
  exact Host.Outcome.next.inj (hu.symm.trans h) ▸ hinv

/-! ## The records of a packet at the port -/

/-- The status rides beside the class 6 record and no other (R25, R125). -/
theorem portRecord_status_isSome (table : CmdTable) (st : Status) (a : Annotation) :
    (portRecord table st a).status.isSome ↔ (portRecord table st a).ann.cls = 6 := by
  obtain ⟨ss, es, cls, label⟩ := a
  cases cls <;> simp [portRecord, annPort, classIndex]

/-- A packet's records at the port are of the classes 0, 1, 2, 3 and 6, in that order (R84, R125). -/
theorem map_portRecord_classes {table table' : CmdTable} {buf : List Entry} {anns : List Annotation} (st : Status)
    (h : packetAnnotations table buf = some anns) :
    (anns.map (portRecord table' st)).map (fun r => r.ann.cls) = recordClasses := by
  rw [← packetAnnotations_classes h, List.map_map]
  rfl

/-- Beside a packet's first four records there is no status, beside the fifth the packet's (R85, R125). -/
theorem map_portRecord_status {table table' : CmdTable} {buf : List Entry} {anns : List Annotation} (st : Status)
    (h : packetAnnotations table buf = some anns) :
    (anns.map (portRecord table' st)).map (fun r => r.status) = [none, none, none, none, some st] := by
  unfold packetAnnotations at h
  split at h
  · cases h
    rfl
  · cases h

/-- One status rides among a packet's records at the port (R85, R125). -/
theorem filterMap_portRecord_status {table table' : CmdTable} {buf : List Entry} {anns : List Annotation} (st : Status)
    (h : packetAnnotations table buf = some anns) :
    (anns.map (portRecord table' st)).filterMap (fun r => r.status) = [st] :=
  calc (anns.map (portRecord table' st)).filterMap (fun r => r.status)
    _ = ((anns.map (portRecord table' st)).map fun r => r.status).filterMap id :=
      (List.filterMap_map (f := fun r : PortRecord => r.status) (g := id)).symm
    _ = [st] := by rw [map_portRecord_status st h]; rfl

/-! ## The framer when the last byte is delivered on an edge -/

/-- The records queued at the port when the event completes a packet with these annotation records (R125). -/
def queued (ev : Event) (anns : List Annotation) (s : State) : List PortRecord :=
  anns.map (portRecord s.cmdTable (statusOf (values (s.buf ++ [entryOf ev]))))

/-- The state after the last byte on an edge: the records of the packet queued, the packet held (R125). -/
def presented (ev : Event) (anns : List Annotation) (s : State) : State :=
  holdPacket (.acceptLast ev) s (completed ev anns s)

@[simp] theorem presented_buf (ev : Event) (anns : List Annotation) (s : State) :
    (presented ev anns s).buf = s.buf ++ [entryOf ev] := rfl

@[simp] theorem presented_pending (ev : Event) (anns : List Annotation) (s : State) :
    (presented ev anns s).pending = s.pending ++ queued ev anns s := rfl

@[simp] theorem presented_transferred (ev : Event) (anns : List Annotation) (s : State) :
    (presented ev anns s).transferred = s.transferred := rfl

/-! ## Everything one step can do -/

/-- In the admitted configuration a step with no edge driven holds the state (R112, R119). -/
theorem step_of_no_edge {s : State} (hmode : s.csumMode = .csum8) (hedges : s.edges = []) : step s = .next s := by
  rw [step, cycle, whenAdmitted, State.admitted, hmode, hedges]
  rfl

/-- The five things a step can do: hold the state, reset, let the receiver take a record, deliver an event that
completes no packet, or deliver the last byte of one (R22 to R24, R124 to R126). -/
inductive StepTo (s : State) : State → Prop where
  | idle : s.edges = [] → StepTo s s
  | reset (e : Edge) (rest : List Edge) : s.edges = e :: rest → e.rst = true →
      StepTo s (resetFramer (takeRecord e (takeEdge rest s)))
  | port (e : Edge) (rest : List Edge) : s.edges = e :: rest → e.rst = false →
      StepTo s (takeRecord e (takeEdge rest s))
  | silent (e : Edge) (rest : List Edge) (t : State) : s.edges = e :: rest → e.rst = false → s.pending = [] →
      (e.word.kind = .other ∨ s.subcase ≠ some .last) →
      transact false e.word.inEvent (takeEdge rest s) = .next t → StepTo s t
  | completing (e : Edge) (rest : List Edge) (anns : List Annotation) : s.edges = e :: rest → e.rst = false →
      s.pending = [] → s.subcase = some .last → s.count < Config.bufDepth →
      packetAnnotations s.cmdTable (s.buf ++ [entryOf e.word.event]) = some anns →
      StepTo s (presented e.word.event anns (takeEdge rest s))

/-- On an edge that delivers a data event in the sub-case `last` the step is `ACCEPT.LAST`, the packet held (R124,
R125). -/
theorem step_eq_acceptLast {s : State} {e : Edge} {rest : List Edge} (hmode : s.csumMode = .csum8)
    (hedges : s.edges = e :: rest) (hr : e.rst = false) (hdeliver : e.evValid = true ∧ s.evReady = true)
    (hk : e.word.kind = .data) (hq : s.subcase = some .last) :
    step s = mapNext (holdPacket (.acceptLast e.word.event) (takeEdge rest s))
      (exec (.acceptLast e.word.event) (takeEdge rest s)) := by
  have hd : decode (takeEdge rest s).subcase e.word = .ok (.acceptLast e.word.event) := by
    rw [takeEdge_subcase, hq]
    exact decode_data .last ((Edge.word_rst e).trans hr) hk
  rw [step_of_acts hmode hedges ((Edge.acts_iff hr).mpr hdeliver), takeRecord_of_evReady hdeliver.2,
    deliverOnEdge_of_decode hd]

/-- A last byte with its packet's records defined is presented on the edge that delivers it (R124, R125). -/
theorem step_of_completing {s : State} {e : Edge} {rest : List Edge} {anns : List Annotation}
    (hmode : s.csumMode = .csum8) (hedges : s.edges = e :: rest) (hr : e.rst = false)
    (hdeliver : e.evValid = true ∧ s.evReady = true) (hk : e.word.kind = .data) (hq : s.subcase = some .last)
    (hcell : s.count < Config.bufDepth)
    (hanns : packetAnnotations s.cmdTable (s.buf ++ [entryOf e.word.event]) = some anns) :
    step s = .next (presented e.word.event anns (takeEdge rest s)) := by
  rw [step_eq_acceptLast hmode hedges hr hdeliver hk hq,
    exec_acceptLast_next (s := takeEdge rest s) |>.mpr ⟨hmode, hq, hcell, anns, hanns, rfl⟩]
  rfl

/-- Only the admitted configuration steps (R17, R87). -/
theorem csumMode_of_step {s t : State} (h : step s = .next t) : s.csumMode = .csum8 := by
  rw [step, cycle, whenAdmitted_next] at h
  exact h.1

/-- A step does one of the five things. -/
theorem stepTo_of_step {s t : State} (h : step s = .next t) : StepTo s t := by
  have hmode := csumMode_of_step h
  have is_t : ∀ {u}, step s = .next u → t = u := fun hu => Host.Outcome.next.inj (h.symm.trans hu)
  cases hedges : s.edges with
  | nil =>
    obtain rfl := is_t (step_of_no_edge hmode hedges)
    exact .idle hedges
  | cons e rest =>
    cases hr : e.rst with
    | true => exact is_t (step_of_rst hmode hedges hr) ▸ .reset e rest hedges hr
    | false =>
      by_cases hacts : e.acts s.evReady = true
      · have hdeliver := (Edge.acts_iff hr).mp hacts
        have hpending := evReady_iff.mp hdeliver.2
        by_cases hlast : e.word.kind = .data ∧ s.subcase = some .last
        · obtain ⟨hk, hq⟩ := hlast
          rw [step_eq_acceptLast hmode hedges hr hdeliver hk hq, mapNext_next] at h
          obtain ⟨u, hu, rfl⟩ := h
          obtain ⟨-, -, hcell, anns, hanns, rfl⟩ := exec_acceptLast_next.mp hu
          exact .completing e rest anns hedges hr hpending hq hcell hanns
        · have hnot : e.word.kind = .other ∨ s.subcase ≠ some .last := by
            cases hk : e.word.kind with
            | other => exact .inl rfl
            | data => exact .inr fun hq => hlast ⟨hk, hq⟩
          rw [step_of_not_last hmode hedges hr hdeliver hnot] at h
          exact .silent e rest t hedges hr hpending hnot h
      · exact is_t (step_of_not_acts hmode hedges hacts) ▸ .port e rest hedges hr

/-! ## The invariant is kept -/

/-- Taking the edge from the host's list keeps R14. -/
theorem State.FramerInv.takeEdge {s : State} (hs : s.FramerInv) (rest : List Edge) :
    (takeEdge rest s).FramerInv :=
  ⟨hs.lengthKnown, hs.lengthByte, hs.below, hs.mode⟩

/-- Taking the edge from the host's list keeps the invariant. -/
theorem State.Inv.takeEdge {s : State} (hs : s.Inv) (rest : List Edge) : (takeEdge rest s).Inv :=
  ⟨hs.lengthKnown, hs.lengthByte, hs.below, hs.mode, hs.ports, hs.emitting⟩

/-- A record taken with others behind it leaves the end of the packet's records (R125). -/
theorem State.Inv.transferRecord {s : State} (hs : s.Inv) {r : PortRecord} {rest : List PortRecord}
    (hp : s.pending = r :: rest) (hrest : rest ≠ []) : (transferRecord r rest s).Inv := by
  have hsuffix : rest <:+ s.pending := hp ▸ List.suffix_cons r rest
  obtain ⟨hclasses, hstatus⟩ := hs.ports
  obtain ⟨hwhole, anns, hanns, htail⟩ := hs.emitting (by simp [hp])
  exact ⟨hs.lengthKnown, hs.lengthByte, fun hnil => absurd hnil hrest, hs.mode,
    ⟨(hsuffix.map _).trans hclasses, fun x hx => hstatus x (hsuffix.mem hx)⟩,
    fun _ => ⟨hwhole, anns, hanns, hsuffix.trans htail⟩⟩

/-- Taking a record keeps the invariant: the framer is drained with the last and holds its packet before (R125). -/
theorem State.Inv.takeRecord {s : State} (hs : s.Inv) (e : Edge) : (takeRecord e s).Inv := by
  obtain h | ⟨r, rest, hp, -, ⟨-, h⟩ | ⟨hrest, h⟩⟩ := takeRecord_cases e s <;> rw [h]
  · exact hs
  · exact State.isEmpty.inv ⟨rfl, rfl⟩ hs.mode rfl
  · exact hs.transferRecord hp hrest

/-- The packet that is presented is held whole with its five records to take (R125). -/
theorem State.FramerInv.inv_presented {s : State} (hs : s.FramerInv) (hp : s.pending = []) {ev : Event}
    {anns : List Annotation} (hq : s.subcase = some .last)
    (hanns : packetAnnotations s.cmdTable (s.buf ++ [entryOf ev]) = some anns) : (presented ev anns s).Inv := by
  obtain ⟨h2, hlast⟩ := subcase_last.mp hq
  have hcount : (presented ev anns s).count = s.count + 1 := List.length_append
  have hpending : (presented ev anns s).pending = queued ev anns s := by rw [presented_pending, hp, List.nil_append]
  refine ⟨?_, ?_, fun hnil => ?_, hs.mode, ⟨?_, fun r hr => ?_⟩, fun _ => ⟨hcount.trans hlast, anns, hanns, ?_⟩⟩
  · have hknown : s.expectedLength ≠ 0 := fun h0 => absurd (hs.lengthKnown.mpr h0) (by omega)
    rw [State.lengthKnownFromTwo, hcount]
    exact ⟨fun hlt => absurd hlt (by omega), fun h0 => absurd h0 hknown⟩
  · intro x hx
    rw [presented_buf, List.getElem?_append_left h2] at hx
    exact hs.lengthByte x hx
  · rw [hpending, queued, List.map_eq_nil_iff] at hnil
    exact absurd (packetAnnotations_length hanns) (by simp [hnil])
  · rw [hpending, queued, map_portRecord_classes _ hanns]
  · rw [hpending] at hr
    obtain ⟨a, -, rfl⟩ := List.mem_map.mp hr
    exact portRecord_status_isSome _ _ a
  · rw [hpending]
    exact List.suffix_rfl

end Sys2Proof.Machine
end

section
/-! The statements on what every step keeps and on the step being total. -/

namespace Sys2Proof.Machine

/-- Settles O34: the framer after reset holds nothing and presents nothing. -/
theorem resetMeetsTheInvariant : Obligations.ResetMeetsTheInvariant := fun _ =>
  State.isEmpty.inv ⟨rfl, rfl⟩ rfl rfl

/-- Settles O35: each of the five things a step can do keeps the invariant. -/
theorem stepKeepsTheInvariant : Obligations.StepKeepsTheInvariant := by
  intro s t hs h
  cases stepTo_of_step h with
  | idle => exact hs
  | reset e rest => exact State.isEmpty.inv ⟨rfl, rfl⟩ ((hs.takeEdge rest).takeRecord e).mode rfl
  | port e rest => exact (hs.takeEdge rest).takeRecord e
  | silent e rest _ _ _ hp hnot ht =>
    have hkept := ((hs.framerInv hp).takeEdge rest).transact_keeps ht
    have hpending : t.pending = s.pending := by rw [transact_frame_of_not_last ht hnot]; rfl
    exact hkept.inv (hpending.trans hp)
  | completing e rest anns _ _ hp hq _ hanns => exact ((hs.framerInv hp).takeEdge rest).inv_presented hp hq hanns

/-- Settles O36: what an edge delivers while the framer is ready is a transaction step from a state that meets R14, and
every other edge is a reset or the receiver's transfer alone. -/
theorem stepNeverStops : Obligations.StepNeverStops := by
  intro s hs
  cases hedges : s.edges with
  | nil => exact ⟨_, step_of_no_edge hs.mode hedges⟩
  | cons e rest =>
    cases hr : e.rst with
    | true => exact ⟨_, step_of_rst hs.mode hedges hr⟩
    | false =>
      by_cases hacts : e.acts s.evReady = true
      · have hdeliver := (Edge.acts_iff hr).mp hacts
        have hready := (hs.framerInv (evReady_iff.mp hdeliver.2)).takeEdge rest
        obtain ⟨v, hv, -⟩ := hready.transact_total false e.word.inEvent
        cases hk : e.word.kind with
        | other => exact ⟨v, (step_of_not_last hs.mode hedges hr hdeliver (.inl hk)).trans hv⟩
        | data =>
          by_cases hq : s.subcase = some .last
          · exact ⟨_, step_of_last hs.mode hedges hr hdeliver hk hq hv⟩
          · exact ⟨v, (step_of_not_last hs.mode hedges hr hdeliver (.inr hq)).trans hv⟩
      · exact ⟨_, step_of_not_acts hs.mode hedges hacts⟩

/-- Settles O37: a data event leaves the packet open or completes it, and both meet R14. -/
theorem transactIsTotal : Obligations.TransactIsTotal := fun _ rst e hs => hs.transact_total rst e

/-- Settles O47: a transfer moves a record from what is left to what is taken, and the records of a completed packet
are queued behind them with its one status. -/
theorem noRecordIsLostAtThePort : Obligations.NoRecordIsLostAtThePort := by
  intro s t hs hr h
  cases stepTo_of_step h with
  | idle => exact ⟨[], [], by simp⟩
  | reset e rest hedges hrst => simp [hedges, hrst] at hr
  | port e rest =>
    obtain ⟨-, -, hanns, hstatuses, -⟩ := takeRecord_frame e (takeEdge rest s)
    exact ⟨[], [], by simp [hanns], by simp [takeRecord_conserves], rfl, by simp [hstatuses]⟩
  | silent e rest _ _ _ hp hnot ht =>
    rw [transact_frame_of_not_last ht hnot]
    exact ⟨[], [], by simp⟩
  | completing e rest anns _ _ hp hq _ hanns =>
    refine ⟨anns, queued e.word.event anns (takeEdge rest s), rfl, ?_, ?_, ?_⟩
    · simp [List.append_assoc]
    · simp [queued, Function.comp_def]
    · rw [queued, filterMap_portRecord_status _ hanns]
      rfl

end Sys2Proof.Machine
end

section
/-! The buffer under each operation, the static parameters under a step, and the edges that take a packet's records one
after another. -/

namespace Sys2Proof.Machine

/-! ## The buffer under each operation -/

/-- Everything an operation can do to the buffer: leave it, empty it, or append its own event where there is a cell
(R28, R29). -/
theorem exec_buf_cases {i : Instr} {s t : State} (h : exec i s = .next t) :
    t.buf = s.buf ∨ t.buf = [] ∨
      ∃ ev, eventOf i = some ev ∧ s.count < Config.bufDepth ∧ t.buf = s.buf ++ [entryOf ev] := by
  cases i with
  | acceptDst ev =>
    obtain ⟨-, -, hcell, rfl⟩ := exec_acceptDst_next.mp h
    exact .inr (.inr ⟨ev, rfl, hcell, rfl⟩)
  | acceptLen ev =>
    obtain ⟨-, -, hcell, rfl⟩ := exec_acceptLen_next.mp h
    exact .inr (.inr ⟨ev, rfl, hcell, rfl⟩)
  | acceptBody ev =>
    obtain ⟨-, -, hcell, rfl⟩ := exec_acceptBody_next.mp h
    exact .inr (.inr ⟨ev, rfl, hcell, rfl⟩)
  | acceptLast ev =>
    obtain ⟨-, -, -, anns, -, rfl⟩ := exec_acceptLast_next.mp h
    exact .inr (.inl rfl)
  | interpret =>
    obtain ⟨-, -, anns, -, rfl⟩ := exec_interpret_next.mp h
    exact .inl rfl
  | reset =>
    obtain rfl := Host.Outcome.next.inj h
    exact .inr (.inl rfl)
  | ignore | lookup | csum8 | crc16 =>
    obtain rfl := Host.Outcome.next.inj h
    exact .inl rfl

/-- An append writes the cell at `count` alone (R29). -/
theorem getElem?_append_of_ne_count {s : State} {k : Nat} (hk : k ≠ s.count) (e : Entry) :
    (s.buf ++ [e])[k]? = s.buf[k]? := by
  obtain hlt | hgt : k < s.count ∨ s.count < k := by omega
  · exact List.getElem?_append_left hlt
  · have hlen : (s.buf ++ [e]).length = s.count + 1 := List.length_append
    rw [List.getElem?_eq_none (by omega), List.getElem?_eq_none (Nat.le_of_lt hgt)]

/-! ## The bound of the buffer -/

/-- A packet that is interpreted has at least five entries (R77). -/
theorem minPkt_le_of_packetAnnotations {table : CmdTable} {buf : List Entry} {anns : List Annotation}
    (h : packetAnnotations table buf = some anns) : 5 ≤ buf.length := by
  have hsome := packetAnnotations_isSome table buf
  rw [h] at hsome
  exact of_decide_eq_true hsome.symm

/-- While records are left to take the whole packet, of at most 260 bytes, is held (R32, R125). -/
theorem State.Inv.count_le_of_presenting {s : State} (hs : s.Inv) (hp : s.pending ≠ []) : s.count ≤ 260 := by
  obtain ⟨hwhole, anns, hanns, -⟩ := hs.emitting hp
  have h2 : 1 < s.buf.length := by
    have hmin := minPkt_le_of_packetAnnotations hanns
    omega
  have hlen := hs.lengthByte _ (List.getElem?_eq_getElem h2)
  have hbyte := s.buf[1].value.isLt
  omega

/-! ## The static parameters -/

/-- The transaction step does not write the static parameters (R17, R18). -/
theorem transact_static {rst : Bool} {e : InEvent} {s t : State} (h : transact rst e s = .next t) :
    t.cmdTable = s.cmdTable ∧ t.csumMode = s.csumMode := by
  obtain ⟨i, -, hi⟩ := runSelected_next.mp h
  exact exec_static hi

/-- No step writes the static parameters (R17, R18). -/
theorem step_static {s t : State} (h : step s = .next t) : t.cmdTable = s.cmdTable ∧ t.csumMode = s.csumMode := by
  cases stepTo_of_step h with
  | idle => exact ⟨rfl, rfl⟩
  | reset e rest | port e rest =>
    obtain ⟨hmode, htable, -⟩ := takeRecord_frame e (takeEdge rest s)
    exact ⟨htable, hmode⟩
  | silent e rest _ _ _ _ _ ht => exact transact_static (s := takeEdge rest s) ht
  | completing e rest anns => exact ⟨rfl, rfl⟩

/-! ## Edges that take the records of a packet -/

/-- An edge without reset, while a record is presented, is the receiver's transfer alone (R24, R125). -/
theorem step_of_presenting {s : State} {e : Edge} {rest : List Edge} (hmode : s.csumMode = .csum8)
    (hedges : s.edges = e :: rest) (hr : e.rst = false) (hp : s.pending ≠ []) :
    step s = .next (takeRecord e (takeEdge rest s)) := by
  refine step_of_not_acts hmode hedges fun hacts => hp ?_
  exact evReady_iff.mp ((Edge.acts_iff hr).mp hacts).2

/-- A ready receiver takes the presented record, and the framer is drained if it was the last (R24, R125). -/
theorem takeRecord_of_ready {e : Edge} {s : State} {r : PortRecord} {left : List PortRecord}
    (hp : s.pending = r :: left) (ha : e.anReady = true) :
    takeRecord e s = drainWhenTaken (transferRecord r left s) := by
  simp [takeRecord, hp, ha]

/-- A receiver that is not ready takes nothing (R24). -/
theorem takeRecord_of_not_ready {e : Edge} {s : State} (ha : e.anReady = false) : takeRecord e s = s := by
  unfold takeRecord
  split
  · rfl
  · simp [ha]

/-- With records left the framer is not drained (R125). -/
theorem drainWhenTaken_of_pending {s : State} (hp : s.pending ≠ []) : drainWhenTaken s = s := by
  unfold drainWhenTaken
  split
  · exact absurd ‹_› hp
  · rfl

/-- With no record left the framer is drained (R125). -/
theorem drainWhenTaken_of_nil {s : State} (hp : s.pending = []) : drainWhenTaken s = drain s := by
  rw [drainWhenTaken, hp]

/-- `s` after `k` edges have been taken from the host's list and `k` records by the receiver, before any drain. -/
def afterTaking (k : Nat) (s : State) : State :=
  { s with
    edges := s.edges.drop k
    edgeCount := s.edgeCount + k
    pending := s.pending.drop k
    transferred := s.transferred ++ s.pending.take k }

/-- Before the first edge nothing is taken. -/
theorem afterTaking_zero (s : State) : afterTaking 0 s = s := by simp [afterTaking]

/-- One record taken on an edge, then `k` more. -/
theorem afterTaking_transferRecord {s : State} {e : Edge} {rest : List Edge} {r : PortRecord} {left : List PortRecord}
    (hedges : s.edges = e :: rest) (hp : s.pending = r :: left) (k : Nat) :
    afterTaking k (transferRecord r left (takeEdge rest s)) = afterTaking (k + 1) s := by
  simp [afterTaking, transferRecord, takeEdge, hedges, hp, List.append_assoc, Nat.add_assoc, Nat.add_comm 1 k]

/-- A run goes on from what its first step leads to. -/
theorem run_succ {k : Nat} {s t : State} (h : step s = .next t) :
    Host.Core.run Sys2Proof.core (k + 1) s = Host.Core.run Sys2Proof.core k t := by
  have hstep : Sys2Proof.core.step s = .next t := h
  simp only [Host.Core.run, hstep]

/-- Edges without reset and with a ready receiver take the records of a packet one by one, and the framer is drained
with the last (R125). -/
theorem run_takes_records {k : Nat} {s : State} {es rest : List Edge} (hmode : s.csumMode = .csum8)
    (hp : s.pending ≠ []) (hk : k ≤ s.pending.length) (hedges : s.edges = es ++ rest) (hes : k ≤ es.length)
    (hready : ∀ e ∈ es, e.rst = false ∧ e.anReady = true) :
    Host.Core.run Sys2Proof.core k s = .next (drainWhenTaken (afterTaking k s)) := by
  induction k generalizing s es with
  | zero =>
    rw [afterTaking_zero, drainWhenTaken_of_pending hp]
    rfl
  | succ k ih =>
    match es, hrs : s.pending, hes, hk, hp with
    | e :: es, r :: left, hes, hk, hp =>
      obtain ⟨hr, ha⟩ := hready e List.mem_cons_self
      have hstep : step s = .next (drainWhenTaken (transferRecord r left (takeEdge (es ++ rest) s))) := by
        rw [← takeRecord_of_ready (s := takeEdge (es ++ rest) s) hrs ha]
        exact step_of_presenting hmode hedges hr (by simp [hrs])
      rw [run_succ hstep, ← afterTaking_transferRecord hedges hrs]
      cases left with
      | nil =>
        obtain rfl : k = 0 := by simpa using hk
        rw [afterTaking_zero]
        rfl
      | cons r' left =>
        have hleft := List.cons_ne_nil r' left
        rw [drainWhenTaken_of_pending hleft]
        exact ih hmode hleft (Nat.le_of_succ_le_succ hk) rfl (Nat.le_of_succ_le_succ hes)
          fun x hx => hready x (List.mem_cons_of_mem e hx)

section EmissionOfAPacket

variable {s : State} {ev : Event} {anns : List Annotation} {k : Nat}

/-- What is left of a presented packet's records after `k` have been taken (R125). -/
theorem afterTaking_presented_pending (hp : s.pending = []) :
    (afterTaking k (presented ev anns s)).pending = (queued ev anns s).drop k := by
  rw [afterTaking, presented_pending, hp, List.nil_append]

/-- What has been taken of a presented packet's records after `k` edges (R125). -/
theorem afterTaking_presented_transferred (hp : s.pending = []) :
    (afterTaking k (presented ev anns s)).transferred = s.transferred ++ (queued ev anns s).take k := by
  rw [afterTaking, presented_pending, hp, List.nil_append, presented_transferred]

/-- Five records are queued for a packet (R84, R125). -/
theorem queued_length (hanns : anns.length = 5) : (queued ev anns s).length = 5 :=
  List.length_map _ |>.trans hanns

/-- Five records are left to take when a packet is presented (R125). -/
theorem presented_pending_length (hp : s.pending = []) (hanns : anns.length = 5) :
    (presented ev anns s).pending.length = 5 := by
  rw [presented_pending, hp, List.nil_append, queued_length hanns]

/-- Some record is left to take when a packet is presented (R125). -/
theorem presented_pending_ne_nil (hp : s.pending = []) (hanns : anns.length = 5) :
    (presented ev anns s).pending ≠ [] :=
  List.ne_nil_of_length_eq_add_one (presented_pending_length hp hanns)

/-- Before the fifth record has been taken some are left (R125). -/
theorem afterTaking_presented_pending_ne_nil (hp : s.pending = []) (hanns : anns.length = 5) (hk : k < 5) :
    (afterTaking k (presented ev anns s)).pending ≠ [] := by
  rw [afterTaking_presented_pending hp, ← List.length_pos_iff, List.length_drop, queued_length hanns]
  omega

/-- With the fifth record taken none is left (R125). -/
theorem afterTaking_presented_pending_five (hp : s.pending = []) (hanns : anns.length = 5) :
    (afterTaking 5 (presented ev anns s)).pending = [] := by
  rw [afterTaking_presented_pending hp, List.drop_eq_nil_of_le (queued_length hanns).le]

/-- With the fifth record taken all are (R125). -/
theorem afterTaking_presented_transferred_five (hp : s.pending = []) (hanns : anns.length = 5) :
    (afterTaking 5 (presented ev anns s)).transferred = s.transferred ++ queued ev anns s := by
  rw [afterTaking_presented_transferred hp, List.take_of_length_le (queued_length hanns).le]

/-- Edges without reset and with a ready receiver take fewer than five records of a presented packet, which stays held
(R125). -/
theorem run_presented_of_lt {es rest : List Edge} (hmode : s.csumMode = .csum8) (hp : s.pending = [])
    (hanns : anns.length = 5) (hedges : s.edges = es ++ rest) (hes : es.length = 5)
    (hready : ∀ e ∈ es, e.rst = false ∧ e.anReady = true) (hk : k < 5) :
    Host.Core.run Sys2Proof.core k (presented ev anns s) = .next (afterTaking k (presented ev anns s)) := by
  have hleft := afterTaking_presented_pending_ne_nil (ev := ev) hp hanns hk
  rw [run_takes_records (s := presented ev anns s) hmode (presented_pending_ne_nil hp hanns)
    (presented_pending_length hp hanns ▸ hk.le) hedges (hes ▸ hk.le) hready, drainWhenTaken_of_pending hleft]

/-- Five such edges take the five records of a presented packet, the framer drained with the fifth (R125). -/
theorem run_presented_five {es rest : List Edge} (hmode : s.csumMode = .csum8) (hp : s.pending = [])
    (hanns : anns.length = 5) (hedges : s.edges = es ++ rest) (hes : es.length = 5)
    (hready : ∀ e ∈ es, e.rst = false ∧ e.anReady = true) :
    Host.Core.run Sys2Proof.core 5 (presented ev anns s) = .next (drain (afterTaking 5 (presented ev anns s))) := by
  have hnone := afterTaking_presented_pending_five (ev := ev) hp hanns
  rw [run_takes_records (s := presented ev anns s) hmode (presented_pending_ne_nil hp hanns)
    (presented_pending_length hp hanns).ge hedges hes.ge hready, drainWhenTaken_of_nil hnone]

end EmissionOfAPacket

end Sys2Proof.Machine
end

section
/-! The statements on the buffer, the static parameters and the edges of an emission. -/

namespace Sys2Proof.Machine

/-- Settles O28: of the three things an operation can do to the buffer only the emptying changes a cell below
`count`. -/
theorem bufferIsOnlyAppendedToOrEmptied : Obligations.BufferIsOnlyAppendedToOrEmptied := by
  intro i s t h
  obtain hsame | hempty | ⟨ev, hev, -, happend⟩ := exec_buf_cases h
  · exact ⟨.inl hsame, fun _ k _ => by rw [hsame]⟩
  · exact ⟨.inr (.inl hempty), fun hne => absurd hempty hne⟩
  · exact ⟨.inr (.inr ⟨ev, hev, happend⟩), fun _ k hk => by rw [happend, List.getElem?_append_left hk]⟩

/-- Settles O29: each of the three appends its event's entry, and only `ACCEPT.LEN` then sets the length. -/
theorem frameOfTheBufferingOperations : Obligations.FrameOfTheBufferingOperations := by
  have cells : ∀ (e : Entry) (s : State) (k : Nat), k ≠ s.count → (appendEntry e s).buf[k]? = s.buf[k]? :=
    fun e _ _ hk => getElem?_append_of_ne_count hk e
  intro ev i s t hi h
  obtain rfl | rfl | rfl := hi
  · obtain ⟨-, -, -, rfl⟩ := exec_acceptDst_next.mp h
    exact ⟨rfl, .inr rfl, appendEntry_count _ s, cells _ s⟩
  · obtain ⟨-, -, -, rfl⟩ := exec_acceptLen_next.mp h
    exact ⟨rfl, .inl rfl, appendEntry_count _ s, cells _ s⟩
  · obtain ⟨-, -, -, rfl⟩ := exec_acceptBody_next.mp h
    exact ⟨rfl, .inr rfl, appendEntry_count _ s, cells _ s⟩

/-- Settles O30: `INTERPRET` only emits, and the functions only write their result. -/
theorem frameOfTheFunctionRows : Obligations.FrameOfTheFunctionRows := by
  intro i s t hnone h
  cases i with
  | interpret =>
    obtain ⟨-, -, anns, -, rfl⟩ := exec_interpret_next.mp h
    exact ⟨rfl, rfl, rfl, rfl, rfl, rfl, rfl, .inl rfl, .inr rfl⟩
  | lookup | csum8 | crc16 =>
    obtain rfl := Host.Outcome.next.inj h
    exact ⟨rfl, rfl, rfl, rfl, rfl, rfl, rfl, .inr ⟨rfl, rfl, rfl⟩, .inl nofun⟩
  | reset | ignore | acceptDst | acceptLen | acceptBody | acceptLast => cases hnone

/-- Settles O31: no operation writes the static parameters, and neither does the receiver's transfer. -/
theorem staticParametersAreNeverWritten : Obligations.StaticParametersAreNeverWritten :=
  ⟨fun _ _ _ => exec_static, fun _ _ => step_static⟩

/-- Settles O38: a length is a byte plus 5, and the count stays below it until the packet is whole. -/
theorem bufferIsBounded : Obligations.BufferIsBounded := by
  have count_le : ∀ {s : State}, s.FramerInv → s.count ≤ 259 := fun hs => Nat.le_of_lt_succ hs.count_lt_bufDepth
  refine ⟨fun s hs => ⟨count_le hs, ?_, ?_⟩, fun s hs => ⟨?_, fun hready => ?_⟩, fun i s t hwf h => ?_⟩
  · obtain h2 | h2 : s.count < 2 ∨ 2 ≤ s.count := by omega
    · exact .inl (hs.lengthKnown.mp h2)
    · exact .inr (hs.length_bounds h2)
  · exact (Memory.wf_iff _).mpr ((count_le hs).trans (by decide))
  · rw [Memory.wf_iff]
    by_cases hp : s.pending = []
    · exact (count_le (hs.framerInv hp)).trans (by decide)
    · exact hs.count_le_of_presenting hp
  · exact count_le (hs.framerInv (evReady_iff.mp hready))
  · obtain hsame | hempty | ⟨ev, -, hcell, happend⟩ := exec_buf_cases h
    · rwa [hsame]
    · rw [hempty]
      rfl
    · rw [happend, Memory.wf_iff, List.length_append]
      exact hcell

/-- Settles O40: an edge that acts with a record presented is a reset, which needs no sub-case, and with none presented
the transfer leaves the sub-case as it is. -/
theorem stepRunsTheDecodedOperation : Obligations.StepRunsTheDecodedOperation := by
  intro s e rest i hmode hedges hacts hdecode
  change i.wellFormed = true ∧
    (_ → step s = exec i (takeRecord e (takeEdge rest s))) ∧
    ∀ ev, _ → step s = match exec i (takeRecord e (takeEdge rest s)) with
      | .next v => .next (holdPacket (.acceptLast ev) (takeRecord e (takeEdge rest s)) v)
      | .fault r => .fault r
      | .refused r => .refused r
  have hdecode' : decode (takeRecord e (takeEdge rest s)).subcase e.word = .ok i := by
    cases hr : e.rst with
    | true =>
      have hreset := (Edge.word_rst e).trans hr
      rw [decode_reset _ hreset, ← hdecode, decode_reset _ hreset]
    | false => rw [takeRecord_of_evReady ((Edge.acts_iff hr).mp hacts).2, takeEdge_subcase, hdecode]
  rw [step_of_acts hmode hedges hacts, deliverOnEdge_of_decode hdecode']
  refine ⟨decode_wellFormed hdecode, fun hne => ?_, ?_⟩
  · rw [holdPacket_eq_id hne, mapNext_id]
  · rintro ev rfl
    rfl

/-- Settles O41: the idle step. -/
theorem idleStepHoldsTheState : Obligations.IdleStepHoldsTheState := fun _ => step_of_no_edge

/-- Settles O43: the edge delivers nothing while a record is presented, so the step is the receiver's transfer. -/
theorem emissionEdge : Obligations.EmissionEdge := by
  intro s e rest r left hmode hedges hr hp
  rw [step_of_presenting hmode hedges hr (by simp [hp])]
  cases ha : e.anReady with
  | false =>
    rw [takeRecord_of_not_ready ha]
    simp [takeEdge, ← hp]
  | true =>
    rw [takeRecord_of_ready (s := takeEdge rest s) hp ha]
    cases left with
    | nil => rfl
    | cons r' left => rfl

/-- Settles O44: the last byte's edge presents the packet, and the five edges take its five records. -/
theorem emissionSequence : Obligations.EmissionSequence := by
  intro s e e1 e2 e3 e4 e5 rest hs hp hq hedges hr hvalid hk hready
  have hinv := hs.framerInv hp
  obtain ⟨anns, hanns⟩ := hinv.exists_records hq (entryOf e.word.event)
  have hfive := packetAnnotations_length hanns
  have hcompleted : transact false e.word.inEvent s = .next (completed e.word.event anns s) := by
    rw [EventWord.inEvent, hk, hinv.transact_last hq hanns]
  let u := takeEdge ([e1, e2, e3, e4, e5] ++ rest) s
  have hleft : ∀ {k}, k < 5 → (afterTaking k (presented e.word.event anns u)).pending ≠ [] :=
    afterTaking_presented_pending_ne_nil hp hfive
  have hnone : (afterTaking 5 (presented e.word.event anns u)).pending = [] :=
    afterTaking_presented_pending_five hp hfive
  have htaken : (afterTaking 5 (presented e.word.event anns u)).transferred =
      s.transferred ++ queued e.word.event anns s :=
    afterTaking_presented_transferred_five (s := u) hp hfive
  refine ⟨presented e.word.event anns u, drain (afterTaking 5 (presented e.word.event anns u)), _,
    queued e.word.event anns s,
    step_of_completing hs.mode hedges hr ⟨hvalid, evReady_iff.mpr hp⟩ hk hq hinv.count_lt_bufDepth hanns, rfl,
    map_portRecord_classes _ hanns, ?_, fun k hk5 => ⟨afterTaking k (presented e.word.event anns u),
      run_presented_of_lt hs.mode hp hfive rfl rfl hready hk5, ?_, afterTaking_presented_pending (s := u) hp,
      afterTaking_presented_transferred (s := u) hp, rfl, rfl⟩,
    run_presented_five hs.mode hp hfive rfl rfl hready, evReady_iff.mpr hnone, ⟨rfl, rfl⟩, hcompleted, ?_⟩
  · rw [queued, ← Function.comp_def Option.isSome, ← List.map_map, map_portRecord_status _ hanns]
    rfl
  · rw [← Bool.not_eq_true, evReady_iff]
    exact hleft hk5
  · rw [← hnone, ← htaken]
    rfl

end Sys2Proof.Machine
end

section
/-! The laws of the sum and of the CRC, and the sum as the compact implementation keeps it. -/

namespace Sys2Proof.Machine

/-! ## The sum -/

/-- The sum does not depend on the order of the bytes (R90). -/
theorem csum8_perm {a b : List Byte} (h : a.Perm b) : csum8 a = csum8 b := by
  apply BitVec.eq_of_toNat_eq
  rw [toNat_csum8, toNat_csum8, (h.map BitVec.toNat).sum_eq]

/-- The sum of a concatenation is the sum of the sums (R90). -/
theorem csum8_append (a b : List Byte) : csum8 (a ++ b) = csum8 a + csum8 b := by
  apply BitVec.eq_of_toNat_eq
  rw [BitVec.toNat_add, toNat_csum8, toNat_csum8, toNat_csum8, List.map_append, List.sum_append, ← Nat.add_mod]

/-- A byte at the end is added to the running sum (R88, R96). -/
theorem csum8_concat (bs : List Byte) (b : Byte) : csum8 (bs ++ [b]) = csum8 bs + b := by
  have hone : csum8 [b] = b := BitVec.zero_add b
  rw [csum8_append, hone]

/-- The valid byte is the negated sum (R91). -/
theorem validByte_eq_neg (h : List Byte) : validByte h = -csum8 h := by
  apply BitVec.eq_of_toNat_eq
  simp [validByte, BitVec.toNat_neg]

/-- The last byte that makes the sum 0 is the valid byte, and no other (R91). -/
theorem csum8_concat_eq_zero_iff (h : List Byte) (c : Byte) : csum8 (h ++ [c]) = 0 ↔ c = validByte h := by
  rw [csum8_concat, validByte_eq_neg]
  constructor
  · intro hzero
    bv_omega
  · rintro rfl
    exact BitVec.add_right_neg _

/-! ## The rounds of the CRC -/

/-- A round shifts, and folds in the polynomial or nothing (R92). -/
theorem crcRound_eq (acc : Crc) : crcRound acc = acc <<< 1 ^^^ (if acc[15] then Config.crcPoly else 0) := by
  unfold crcRound
  split <;> simp

/-- A round takes an exclusive-or to the exclusive-or of the rounds: the polynomial is folded in twice, so not at all,
when bit 15 is set in both (R94). -/
theorem crcRound_xor (a b : Crc) : crcRound (a ^^^ b) = crcRound a ^^^ crcRound b := by
  have hfold : (if (a ^^^ b)[15] then Config.crcPoly else 0) =
      (if a[15] then Config.crcPoly else 0) ^^^ (if b[15] then Config.crcPoly else 0) := by
    rw [BitVec.getElem_xor]
    cases a[15] <;> cases b[15] <;> rfl
  rw [crcRound_eq, crcRound_eq, crcRound_eq, hfold, BitVec.shiftLeft_xor_distrib]
  ac_rfl

/-- Rounds take an exclusive-or to the exclusive-or of the rounds (R94). -/
theorem crcRounds_xor (n : Nat) (a b : Crc) : crcRounds n (a ^^^ b) = crcRounds n a ^^^ crcRounds n b := by
  induction n generalizing a b with
  | zero => rfl
  | succ n ih => rw [crcRounds, crcRounds, crcRounds, crcRound_xor, ih]

/-- The byte step is linear in accumulator and byte together (R94). -/
theorem crcByte_xor (a b : Crc) (x y : Byte) : crcByte (a ^^^ b) (x ^^^ y) = crcByte a x ^^^ crcByte b y := by
  unfold crcByte
  rw [← crcRounds_xor, BitVec.setWidth_xor, BitVec.shiftLeft_xor_distrib]
  congr 1
  ac_rfl

/-- The CRC is linear in accumulator and input together, for inputs of one length (R94). -/
theorem crc16From_xor {a b : List Byte} (h : a.length = b.length) (acc acc' : Crc) :
    crc16From (acc ^^^ acc') (List.zipWith (fun x y => x ^^^ y) a b) = crc16From acc a ^^^ crc16From acc' b := by
  induction a generalizing b acc acc' with
  | nil =>
    obtain rfl := List.eq_nil_of_length_eq_zero h.symm
    rfl
  | cons x a ih =>
    cases b with
    | nil => cases h
    | cons y b => rw [List.zipWith_cons_cons, crc16From, crc16From, crc16From, crcByte_xor, ih (Nat.succ.inj h)]

/-- The CRC of a concatenation goes on from the CRC of the front (R92). -/
theorem crc16_append (a b : List Byte) : crc16 (a ++ b) = crc16From (crc16 a) b := by
  rw [crc16_eq_foldl, List.foldl_append, ← crc16_eq_foldl, crc16From_eq_foldl]

/-- Rounds on an accumulator of 0 leave 0 (R92). -/
theorem crcRounds_zero (n : Nat) : crcRounds n 0 = 0 := by
  induction n with
  | zero => rfl
  | succ n ih => exact ih

/-- While no set bit reaches bit 15 the rounds only shift (R92). -/
theorem crcRounds_eq_shiftLeft (n : Nat) {acc : Crc} (h : acc.toNat * 2 ^ n < 2 ^ 16) :
    crcRounds n acc = acc <<< n := by
  induction n generalizing acc with
  | zero => rw [crcRounds, BitVec.shiftLeft_zero]
  | succ n ih =>
    have hfits : acc.toNat * 2 < 2 ^ 16 :=
      (Nat.mul_le_mul_left _ (Nat.le_self_pow n.succ_ne_zero 2)).trans_lt h
    have hdouble : (acc <<< 1).toNat = acc.toNat * 2 := by
      rw [BitVec.toNat_shiftLeft, Nat.shiftLeft_eq, pow_one, Nat.mod_eq_of_lt hfits]
    have htop : acc[15] = false := by
      rw [BitVec.getElem_eq_testBit_toNat]
      exact Nat.testBit_lt_two_pow (by omega)
    have hround : crcRound acc = acc <<< 1 := by simp [crcRound, htop]
    rw [crcRounds, hround, ih (by rwa [hdouble, Nat.mul_assoc, ← Nat.pow_succ']), ← BitVec.shiftLeft_add,
      Nat.add_comm]

/-- An accumulator's own high byte, folded in, leaves the low byte (R92). -/
theorem xor_own_high_byte (acc : Crc) :
    acc ^^^ ((acc.extractLsb' 8 8).setWidth 16 <<< 8) = (acc.extractLsb' 0 8).setWidth 16 := by
  ext i hi
  obtain hlow | hhigh : i < 8 ∨ 8 ≤ i := by omega
  · simp [hlow, BitVec.getLsbD_eq_getElem hi]
  · have hsame : 8 + (i - 8) = i := by omega
    simp [Nat.not_lt.mpr hhigh, hsame, BitVec.getLsbD_eq_getElem hi, show i - 8 < 8 by omega]

/-- The rounds of one byte on an accumulator of one byte only shift it up (R92). -/
theorem crcRounds_eight_byte (b : Byte) : crcRounds 8 (b.setWidth 16) = b.setWidth 16 <<< 8 := by
  refine crcRounds_eq_shiftLeft 8 ?_
  rw [BitVec.toNat_setWidth_of_le (by decide)]
  have hbyte := b.isLt
  omega

/-- An accumulator's own high and low bytes, folded in, leave 0 (R94). -/
theorem crc16From_own_bytes (acc : Crc) : crc16From acc [acc.extractLsb' 8 8, acc.extractLsb' 0 8] = 0 := by
  have hhigh : crcByte acc (acc.extractLsb' 8 8) = (acc.extractLsb' 0 8).setWidth 16 <<< 8 := by
    rw [crcByte, xor_own_high_byte, crcRounds_eight_byte]
  rw [crc16From, hhigh, crc16From, crcByte, BitVec.xor_self]
  exact crcRounds_zero 8

/-! ## The mask at the end -/

/-- The low bits of a shifted number are the shifted low bits. -/
theorem ofNat_shiftLeft (n k : Nat) : BitVec.ofNat 16 (n <<< k) = BitVec.ofNat 16 n <<< k := by
  apply BitVec.eq_of_toNat_eq
  simp only [BitVec.toNat_ofNat, BitVec.toNat_shiftLeft, Nat.shiftLeft_eq, Nat.mod_mul_mod]

/-- A round on an unbounded accumulator is, in its low 16 bits, the round (R93). -/
theorem ofNat_crcWideRound (acc : Nat) : BitVec.ofNat 16 (crcWideRound acc) = crcRound (BitVec.ofNat 16 acc) := by
  have htop : (BitVec.ofNat 16 acc)[15] = acc.testBit 15 := by
    rw [BitVec.getElem_eq_testBit_toNat, BitVec.toNat_ofNat, Nat.testBit_mod_two_pow]
    rfl
  unfold crcWideRound crcRound
  rw [htop]
  split
  · rw [BitVec.ofNat_xor, ofNat_shiftLeft, BitVec.ofNat_toNat, BitVec.setWidth_eq]
  · exact ofNat_shiftLeft acc 1

/-- Rounds on an unbounded accumulator are, in its low 16 bits, the rounds (R93). -/
theorem ofNat_crcWideRounds (n : Nat) (acc : Nat) :
    BitVec.ofNat 16 (crcWideRounds n acc) = crcRounds n (BitVec.ofNat 16 acc) := by
  induction n generalizing acc with
  | zero => rfl
  | succ n ih => rw [crcWideRounds, crcRounds, ih, ofNat_crcWideRound]

/-- The procedure on an unbounded accumulator gives, in its low 16 bits, the CRC (R93). -/
theorem ofNat_crcWideFrom (bs : List Byte) (acc : Nat) :
    BitVec.ofNat 16 (crcWideFrom acc bs) = crc16From (BitVec.ofNat 16 acc) bs := by
  induction bs generalizing acc with
  | nil => rfl
  | cons b bs ih =>
    have hbyte : BitVec.ofNat 16 (acc ^^^ (b.toNat <<< 8)) = BitVec.ofNat 16 acc ^^^ (b.setWidth 16 <<< 8) := by
      rw [BitVec.ofNat_xor, ofNat_shiftLeft, BitVec.ofNat_toNat]
    rw [crcWideFrom, crc16From, ih, ofNat_crcWideRounds, hbyte]
    rfl

end Sys2Proof.Machine
end

section
/-! The statements on the checksum functions' laws. -/

namespace Sys2Proof.Machine

/-- Settles O17: the sum as one of natural numbers, reduced once, does not depend on order and splits. -/
theorem csum8Laws : Obligations.Csum8Laws := ⟨rfl, fun _ _ => csum8_perm, csum8_append⟩

/-- Settles O18: the last byte is added to the sum, so it must be its negation. -/
theorem validChecksumByteIsUnique : Obligations.ValidChecksumByteIsUnique := csum8_concat_eq_zero_iff

/-- Settles O19: no round moves a bit down, so the low 16 bits do not depend on those above. -/
theorem crcMaskTimeDoesNotMatter : Obligations.CrcMaskTimeDoesNotMatter := by
  intro bs
  rw [crcLateMask, ← BitVec.toNat_ofNat, ofNat_crcWideFrom]
  rfl

/-- Settles O20: the CRC starts at 0, which is 0 with 0. -/
theorem crcIsLinear : Obligations.CrcIsLinear := fun _ _ h => crc16From_xor h 0 0

/-- Settles O21: the CRC's own bytes cancel it, and a zero byte leaves the initial 0. -/
theorem crcOfOwnCrcIsZero : Obligations.CrcOfOwnCrcIsZero := by
  refine ⟨fun bs => ?_, fun bs => ?_⟩
  · rw [crc16_append, crc16From_own_bytes]
  · have hzero : crcByte Config.crcInit 0x00#8 = Config.crcInit := by decide
    rw [crc16, crc16From, hzero, crc16]

end Sys2Proof.Machine
end

section
/-! The compact implementation beside the framer, what the conditions read of a completing byte, and the outcomes that
are no next state. -/

namespace Sys2Proof.Machine

/-! ## The compact implementation -/

/-- What the compact implementation holds of an empty buffer is its empty state (R20). -/
theorem compactOf_of_isEmpty {s : State} (h : s.isEmpty) : compactOf s = Compact.empty := by
  obtain ⟨hbuf, hlen⟩ := h
  rw [compactOf, State.count, hbuf, hlen]
  rfl

/-- The first four entries after an append: the entry is among them only while there are fewer (R20). -/
theorem take_four_concat (buf : List Entry) (e : Entry) :
    (buf ++ [e]).take 4 = if buf.length < 4 then buf.take 4 ++ [e] else buf.take 4 := by
  split
  · rw [List.take_of_length_le (by rw [List.length_append]; simpa), List.take_of_length_le (by omega)]
  · exact List.take_append_of_le_length (by omega)

/-- Its append keeps to the framer's: the running sum takes the byte, the header the entry while it is short, and the
latest end offset is the entry's (R20, R96). -/
theorem compactOf_appendEntry (e : Entry) (s : State) : compactOf (appendEntry e s) = (compactOf s).append e := by
  simp only [compactOf, Compact.append, appendEntry_count, appendEntry_expectedLength, appendEntry_buf, values_concat,
    csum8_concat, take_four_concat, List.getLast?_concat]
  rfl

/-- Its accept is that of the framer, by the order of tests of R65, on what it holds of the framer's append. -/
theorem accept_compactOf (table : CmdTable) (ev : Event) (s : State) :
    Compact.accept table ev (compactOf s) =
      if (appendEntry (entryOf ev) s).count = 2 then
        (compactOf (setLength ev.value (appendEntry (entryOf ev) s)), ⟨[], []⟩)
      else if (appendEntry (entryOf ev) s).count = s.expectedLength.toNat then
        (Compact.empty, (compactOf (appendEntry (entryOf ev) s)).records table)
      else (compactOf (appendEntry (entryOf ev) s), ⟨[], []⟩) := by
  rw [Compact.accept, ← compactOf_appendEntry]
  rfl

/-- Its records of a whole packet are the framer's: the header, the sum and the latest end offset give them all
(R20, R96). -/
theorem records_compactOf {s : State} {anns : List Annotation} (h : packetAnnotations s.cmdTable s.buf = some anns) :
    (compactOf s).records s.cmdTable = ⟨anns, [statusOf (values s.buf)]⟩ := by
  unfold packetAnnotations at h
  split at h
  · rename_i e0 e1 e2 e3 e4 rest hbuf
    obtain rfl := Option.some.inj h
    have hlast : (e0 :: e1 :: e2 :: e3 :: e4 :: rest).getLast? = some (rest.getLastD e4) := by
      simp [List.getLast?_cons, List.getLastD_eq_getLast?]
    rw [compactOf, hbuf, hlast]
    rfl
  · cases h

/-- A data event takes the framer and the compact implementation to corresponding states with the same output
(R20, R96). -/
theorem State.FramerInv.accept_refines {s : State} (hs : s.FramerInv) (ev : Event) :
    ∃ t, transact false { kind := .data, ev := ev } s = .next t ∧
      compactOf t = (Compact.accept s.cmdTable ev (compactOf s)).1 ∧
      t.annotations = s.annotations ++ (Compact.accept s.cmdTable ev (compactOf s)).2.annotations ∧
      t.statuses = s.statuses ++ (Compact.accept s.cmdTable ev (compactOf s)).2.statuses := by
  rw [accept_compactOf, appendEntry_count]
  obtain ⟨q, hq⟩ := hs.exists_subcase
  cases q with
  | dst =>
    have hzero : s.count = 0 := List.length_eq_zero_iff.mpr (subcase_dst.mp hq)
    have hlen : s.expectedLength.toNat = 0 := by rw [hs.lengthKnown.mp (by omega)]; rfl
    rw [if_neg (by omega), if_neg (by omega)]
    exact ⟨_, hs.transact_dst hq ev, rfl, (List.append_nil _).symm, (List.append_nil _).symm⟩
  | len =>
    rw [if_pos (by rw [subcase_len.mp hq])]
    exact ⟨_, hs.transact_len hq ev, rfl, (List.append_nil _).symm, (List.append_nil _).symm⟩
  | body =>
    obtain ⟨h2, hbelow⟩ := subcase_body.mp hq
    rw [if_neg (by omega), if_neg (by omega)]
    exact ⟨_, hs.transact_body hq ev, rfl, (List.append_nil _).symm, (List.append_nil _).symm⟩
  | last =>
    obtain ⟨h2, hlast⟩ := subcase_last.mp hq
    obtain ⟨anns, hanns⟩ := hs.exists_records hq (entryOf ev)
    have hrecords := records_compactOf (s := appendEntry (entryOf ev) s) hanns
    rw [appendEntry_cmdTable] at hrecords
    rw [if_neg (by omega), if_pos hlast, hrecords]
    exact ⟨_, hs.transact_last hq hanns, compactOf_of_isEmpty ⟨rfl, rfl⟩, rfl, rfl⟩

/-! ## What the conditions read of a completing byte -/

/-- E4 of the byte that completes a packet is the negated verdict on the packet (R97, R101). -/
theorem checksumMismatch_of_last {s : State} (hq : s.subcase = some .last) (prev : Option Event) (ev : Event) :
    Condition.checksumMismatch.meets prev { kind := .data, ev := ev } s =
      !(statusOf (values (s.buf ++ [entryOf ev]))).ok := by
  simp [Condition.meets, completedBy, hq, statusOf]

/-- E5 of the byte that completes a packet is the negated KNOWN of the packet's command (R97, R102). -/
theorem unknownCommand_of_last {s : State} (hq : s.subcase = some .last) {e0 e1 e2 e3 : Entry} {rest : List Entry}
    (hbuf : s.buf = e0 :: e1 :: e2 :: e3 :: rest) (prev : Option Event) (ev : Event) :
    Condition.unknownCommand.meets prev { kind := .data, ev := ev } s = !lookupKnown s.cmdTable e3.value := by
  simp [Condition.meets, completedBy, hq, commandOf, hbuf]

/-- Four entries are held before the last byte of a packet (R6). -/
theorem State.FramerInv.exists_header {s : State} (hs : s.FramerInv) (hq : s.subcase = some .last) :
    ∃ e0 e1 e2 e3 rest, s.buf = e0 :: e1 :: e2 :: e3 :: rest := by
  obtain ⟨hheader, -⟩ := hs.count_bounds_of_last hq
  match hbuf : s.buf, (show Config.hdrLen ≤ s.buf.length from hheader) with
  | e0 :: e1 :: e2 :: e3 :: rest, _ => exact ⟨e0, e1, e2, e3, rest, rfl⟩

/-! ## The outcomes that are no next state -/

/-- The guard refuses the configuration the spec gives no meaning (R87, U6). -/
theorem whenAdmitted_of_crc16 {s : State} (h : s.csumMode = .crc16) (k : State → Host.Outcome State Fault Refusal) :
    whenAdmitted s k = .refused .csumModeCrc16 := by
  simp [whenAdmitted, State.admitted, h]

/-- The guard lets the admitted configuration through (R17). -/
theorem whenAdmitted_of_csum8 {s : State} (h : s.csumMode = .csum8) (k : State → Host.Outcome State Fault Refusal) :
    whenAdmitted s k = k s := by
  simp [whenAdmitted, State.admitted, h]

/-- An operation of `ACCEPT` is guarded by its sub-case and appends its event first (R47, R65). -/
theorem exec_acceptInstr (p : Subcase) (ev : Event) (s : State) :
    ∃ k, exec (acceptInstr p ev) s = whenSubcase p s fun t => appendThen (entryOf ev) t k := by
  cases p <;> exact ⟨_, rfl⟩

/-- An operation of `ACCEPT` is refused outside its sub-case (log entry 8). -/
theorem exec_acceptInstr_of_ne {p : Subcase} {s : State} (hmode : s.csumMode = .csum8) (hq : s.subcase ≠ some p)
    (ev : Event) : exec (acceptInstr p ev) s = .refused .subcaseNotSelected := by
  obtain ⟨k, hk⟩ := exec_acceptInstr p ev s
  rw [hk, whenSubcase, whenAdmitted_of_csum8 hmode, if_neg hq]

/-- An operation of `ACCEPT` faults where there is no cell for its byte (log entry 12). -/
theorem exec_acceptInstr_of_full {p : Subcase} {s : State} (hmode : s.csumMode = .csum8) (hq : s.subcase = some p)
    (hfull : Config.bufDepth ≤ s.count) (ev : Event) : exec (acceptInstr p ev) s = .fault (.bufferIndex s.count) := by
  obtain ⟨k, hk⟩ := exec_acceptInstr p ev s
  rw [hk, whenSubcase, whenAdmitted_of_csum8 hmode, if_pos hq, appendThen, if_neg hfull.not_gt]

/-- Interpretation is refused without a whole packet (log entry 6). -/
theorem interpretBuffer_of_incomplete {s : State} (h : s.count ≠ s.expectedLength.toNat ∨ s.count < 5) :
    interpretBuffer s = .refused .packetIncomplete := by
  unfold interpretBuffer
  by_cases hwhole : s.count = s.expectedLength.toNat
  · have hnone : packetAnnotations s.cmdTable s.buf = none := by
      have hshort : ¬ 5 ≤ s.buf.length := (h.resolve_left (not_not_intro hwhole)).not_ge
      rwa [← Option.not_isSome_iff_eq_none, packetAnnotations_isSome, decide_eq_true_eq]
    rw [if_pos hwhole, hnone]
  · rw [if_neg hwhole]

end Sys2Proof.Machine
end

section
/-! The statements on the compact implementation, the conditions and the stops. -/

namespace Sys2Proof.Machine

/-- Settles O53: the compact implementation's append is the framer's on what it holds, and the header, the sum and the
latest end offset give all of a packet's records. -/
theorem compactImplementationRefines : Obligations.CompactImplementationRefines := by
  refine ⟨fun table => compactOf_of_isEmpty ⟨rfl, rfl⟩, fun s rst e hs => ?_,
    fun s table c e => ⟨rfl, _, exec_reset s, compactOf_of_isEmpty ⟨rfl, rfl⟩⟩,
    fun s table c ev => ⟨rfl, exec_ignore ev s⟩⟩
  have keeps : ∀ {t}, transact rst e s = .next t → t.FramerInv := hs.transact_keeps
  obtain ⟨k, ev⟩ := e
  cases rst with
  | true =>
    exact ⟨_, exec_reset s, keeps (exec_reset s), compactOf_of_isEmpty ⟨rfl, rfl⟩, (List.append_nil _).symm,
      (List.append_nil _).symm⟩
  | false =>
    cases k with
    | other => exact ⟨s, exec_ignore ev s, hs, rfl, (List.append_nil _).symm, (List.append_nil _).symm⟩
    | data =>
      obtain ⟨t, ht, hrefines⟩ := hs.accept_refines ev
      exact ⟨t, ht, keeps ht, hrefines⟩

/-- Settles O27: the conditions read the sum and the command of the packet the byte completes, as its status and its
summary record do. -/
theorem conditionsAreWhatIsRecorded : Obligations.ConditionsAreWhatIsRecorded := by
  intro s ev prev hs hq
  obtain ⟨e0, e1, e2, e3, rest, hbuf⟩ := hs.exists_header hq
  have hanns := packetAnnotations_concat s.cmdTable e0 e1 e2 e3 (entryOf ev) rest
  have hwhole : e0 :: e1 :: e2 :: e3 :: (rest ++ [entryOf ev]) = s.buf ++ [entryOf ev] := by rw [hbuf]; rfl
  rw [hwhole] at hanns
  refine ⟨_, _, portRecord s.cmdTable (statusOf (values (s.buf ++ [entryOf ev])))
      (summaryRecord e0.ss ev.es e3.value (lookupText s.cmdTable e3.value)),
    exec_acceptLast_next.mpr ⟨hs.mode, hq, hs.count_lt_bufDepth, _, hanns, rfl⟩, completed_statuses ev _ s, ?_, rfl,
    checksumMismatch_of_last hq prev ev, unknownCommand_of_last hq hbuf prev ev⟩
  rw [completed_pending, List.getLast?_append]
  rfl

/-- Settles O57: the step, the four `ACCEPT` operations and `INTERPRET` stand behind the same guard. -/
theorem crc16ConfigurationIsRefused : Obligations.Crc16ConfigurationIsRefused := by
  intro s ev h
  have haccept : ∀ p, exec (acceptInstr p ev) s = .refused .csumModeCrc16 := fun p => by
    obtain ⟨k, hk⟩ := exec_acceptInstr p ev s
    rw [hk, whenSubcase, whenAdmitted_of_crc16 h]
  refine ⟨?_, haccept .dst, haccept .len, haccept .body, haccept .last, whenAdmitted_of_crc16 h _⟩
  rw [step, cycle, whenAdmitted_of_crc16 h]

/-- Settles O58: the guard on the sub-case, the append's on the cells, and interpretation's on the packet. -/
theorem stopsOutsideTheConditions : Obligations.StopsOutsideTheConditions := by
  intro s ev i p hmode
  refine ⟨?_, ?_, fun hq hshort => ?_, fun h => ?_⟩
  · rintro rfl hq
    exact exec_acceptInstr_of_ne hmode hq ev
  · rintro rfl hq hfull
    exact exec_acceptInstr_of_full hmode hq hfull ev
  · have hcell : s.count < Config.bufDepth := hshort.trans (by decide)
    have hincomplete : interpretBuffer (appendEntry (entryOf ev) s) = .refused .packetIncomplete :=
      interpretBuffer_of_incomplete (.inr (by rw [appendEntry_count]; omega))
    rw [exec, execAcceptLast, whenSubcase, whenAdmitted_of_csum8 hmode, if_pos hq, appendThen, if_pos hcell,
      hincomplete]
    rfl
  · exact (whenAdmitted_of_csum8 hmode _).trans (interpretBuffer_of_incomplete h)

end Sys2Proof.Machine
end

section
/-! Deliveries one after another: non-data events between them, the greedy cut of a stream, the packets of the stimulus
script, and the order of the records under the host's contract. -/

namespace Sys2Proof.Machine

/-! ## Deliveries one after another -/

/-- Deliveries go on from what those before led to (R40). -/
theorem transactAll_append (before after : List Delivery) (s : State) :
    transactAll (before ++ after) s = andThen (transactAll before s) (transactAll after) := by
  induction before generalizing s with
  | nil => rfl
  | cons d before ih =>
    rw [List.cons_append, transactAll, transactAll]
    cases h : transact d.rst d.event s with
    | next t => exact ih t
    | fault r | refused r => rfl

/-- A non-data event before other deliveries leaves them as they are (R70, R122). -/
theorem transactAll_other (ev : Event) (after : List Delivery) :
    transactAll ({ rst := false, event := { kind := .other, ev := ev } } :: after) = transactAll after := rfl

/-! ## The greedy cut -/

/-- These events are one whole packet: there are as many as the second says (R73). -/
def wholePacket (evs : List Event) : Prop := ∃ l, evs[1]? = some l ∧ evs.length = l.value.toNat + 5

/-- A stream is an open packet, or begins with a whole one (R73). -/
theorem openPacket_or_wholePacket_append (evs : List Event) :
    openPacket evs ∨ ∃ packet more, evs = packet ++ more ∧ wholePacket packet := by
  by_cases hopen : openPacket evs
  · exact .inl hopen
  · obtain ⟨l, hl, hlen⟩ : ∃ l, evs[1]? = some l ∧ l.value.toNat + 5 ≤ evs.length := by
      simpa [openPacket] using hopen
    refine .inr ⟨evs.take (l.value.toNat + 5), evs.drop (l.value.toNat + 5),
      (List.take_append_drop _ evs).symm, l, ?_, ?_⟩
    · rw [List.getElem?_take_of_lt (by omega), hl]
    · rw [List.length_take_of_le hlen]

/-- Of an open packet the cut takes nothing (R73). -/
theorem cutFrom_openPacket {evs : List Event} (hopen : openPacket evs) (fuel : Nat) : cutFrom fuel evs = ([], evs) := by
  match fuel, evs with
  | 0, _ | _ + 1, [] | _ + 1, [_] => rfl
  | _ + 1, _ :: l :: _ => rw [cutFrom, if_neg (hopen l rfl).not_ge]

/-- From a stream that begins with a whole packet the cut takes that packet and goes on behind it (R73). -/
theorem cutFrom_wholePacket {packet : List Event} (h : wholePacket packet) (more : List Event) (fuel : Nat) :
    cutFrom (fuel + 1) (packet ++ more) = (packet :: (cutFrom fuel more).1, (cutFrom fuel more).2) := by
  obtain ⟨l, hl, hlen⟩ := h
  match packet, hl, hlen with
  | a :: l :: rest, rfl, hlen =>
    have hle : l.value.toNat + 5 ≤ (a :: l :: (rest ++ more)).length := by
      rw [← hlen]
      simp
    have hsplit : a :: l :: (rest ++ more) = (a :: l :: rest) ++ more := rfl
    change cutFrom (fuel + 1) (a :: l :: (rest ++ more)) = _
    rw [cutFrom, if_pos hle, hsplit, ← hlen, List.take_left, List.drop_left]

/-- What is cut is whole packets, and cut and left over together are the stream (R73). -/
theorem cutFrom_spec (fuel : Nat) (evs : List Event) :
    (cutFrom fuel evs).1.flatten ++ (cutFrom fuel evs).2 = evs ∧
      ∀ packet ∈ (cutFrom fuel evs).1, wholePacket packet := by
  induction fuel generalizing evs with
  | zero => exact ⟨rfl, nofun⟩
  | succ fuel ih =>
    obtain hopen | ⟨packet, more, rfl, hwhole⟩ := openPacket_or_wholePacket_append evs
    · rw [cutFrom_openPacket hopen]
      exact ⟨rfl, nofun⟩
    · obtain ⟨hflatten, hpackets⟩ := ih more
      rw [cutFrom_wholePacket hwhole]
      refine ⟨?_, List.forall_mem_cons.mpr ⟨hwhole, hpackets⟩⟩
      rw [List.flatten_cons, List.append_assoc, hflatten]

/-- `s` with the records of these packets emitted and these events of an open packet held (R73). -/
def withCut (packets : List (List Event)) (left : List Event) (s : State) : State :=
  { withHeld left s with
    annotations := s.annotations ++ packets.flatMap (eventAnnotations s.cmdTable)
    statuses := s.statuses ++ packets.map eventStatus
    pending := s.pending ++ packets.flatMap (eventPortRecords s.cmdTable) }

/-- With no packet cut the events are held and nothing is emitted. -/
theorem withCut_nil (left : List Event) (s : State) : withCut [] left s = withHeld left s := by
  simp [withCut, withHeld]

/-- The records of the first packet come before those of the others. -/
theorem withCut_cons (packet : List Event) (packets : List (List Event)) (left : List Event) (s : State) :
    withCut (packet :: packets) left s = withCut packets left (withPacket packet s) := by
  simp [withCut, withHeld, withPacket, List.append_assoc]

/-- Data events fed from EMPTY emit the records of the packets of the cut and leave the rest held (R73). -/
theorem feed_eq_withCut {fuel : Nat} {evs : List Event} {s : State} (hfuel : evs.length ≤ fuel)
    (hmode : s.csumMode = .csum8) (hempty : s.isEmpty) :
    feed evs s = .next (withCut (cutFrom fuel evs).1 (cutFrom fuel evs).2 s) := by
  induction fuel generalizing evs s with
  | zero =>
    obtain rfl := List.eq_nil_of_length_eq_zero (Nat.le_zero.mp hfuel)
    rw [cutFrom, withCut_nil, withHeld_nil hempty]
    rfl
  | succ fuel ih =>
    obtain hopen | ⟨packet, more, rfl, hwhole⟩ := openPacket_or_wholePacket_append evs
    · rw [cutFrom_openPacket hopen, withCut_nil, feed_openPacket hopen hmode hempty]
    · rw [cutFrom_wholePacket hwhole, withCut_cons]
      obtain ⟨l, hl, hlen⟩ := hwhole
      rw [feed_append (feed_packet hmode hempty hl hlen)]
      rw [List.length_append] at hfuel
      exact ih (by omega) hmode ⟨rfl, rfl⟩

/-! ## The packets of the stimulus script -/

/-- The data events of the bytes of a `PKT` line (R59). -/
def pktEvents (bs : List Byte) (t w p : Nat) : List Event :=
  match bs with
  | [] => []
  | b :: rest => { aux := 0, value := b, ss := t, es := t + w } :: pktEvents rest (t + p) w p

/-- The lines of a packet deliver its data events (R58, R59). -/
theorem pktLines_delivery (bs : List Byte) (t w p : Nat) :
    (pktLines bs t w p).map Line.delivery = (pktEvents bs t w p).map dataDelivery := by
  induction bs generalizing t with
  | nil => rfl
  | cons b rest ih =>
    rw [pktLines, pktEvents, List.map_cons, List.map_cons, ih]
    rfl

/-- There is a line for each byte (R59). -/
theorem pktLines_length (bs : List Byte) (t w p : Nat) : (pktLines bs t w p).length = bs.length := by
  induction bs generalizing t with
  | nil => rfl
  | cons b rest ih => rw [pktLines, List.length_cons, ih, List.length_cons]

/-- The events of a packet's lines carry its bytes (R59). -/
theorem pktEvents_values (bs : List Byte) (t w p : Nat) : (pktEvents bs t w p).map (fun ev => ev.value) = bs := by
  induction bs generalizing t with
  | nil => rfl
  | cons b rest ih => rw [pktEvents, List.map_cons, ih]

/-- The values of the entries of data events are the events' (R29, R78). -/
theorem values_map_entryOf (evs : List Event) : values (evs.map entryOf) = evs.map (fun ev => ev.value) := List.map_map

/-- A packet with its valid byte passes the check (R91). -/
theorem statusOf_validByte (h : List Byte) : statusOf (h ++ [validByte h]) = { csum := 0, ok := true } := by
  have hzero := (csum8_concat_eq_zero_iff h (validByte h)).mpr rfl
  rw [statusOf, hzero]
  rfl

/-- The bytes `MKPKT` writes (R59). -/
def mkpktBytes (dst src cmd : Byte) (data : List Byte) : List Byte :=
  mkpktHead dst src cmd data ++ [validByte (mkpktHead dst src cmd data)]

/-- `MKPKT` writes five bytes more than the data (R59). -/
theorem mkpktBytes_length (dst src cmd : Byte) (data : List Byte) :
    (mkpktBytes dst src cmd data).length = data.length + 5 := by
  simp [mkpktBytes, mkpktHead]

/-- The lines of `MKPKT` are those of its bytes, of which the data are at most 255 (R59). -/
theorem mkpkt_eq_some {dst src cmd : Byte} {data : List Byte} {t w p : Nat} {ls : List Line}
    (h : mkpkt dst src cmd data t w p = some ls) :
    data.length ≤ 255 ∧ ls = pktLines (mkpktBytes dst src cmd data) t w p := by
  unfold mkpkt pkt at h
  split at h
  · split at h
    · exact ⟨‹_›, (Option.some.inj h).symm⟩
    · cases h
  · cases h

/-- The events of a `MKPKT` packet are a whole packet (R59). -/
theorem wholePacket_mkpkt {dst src cmd : Byte} {data : List Byte} (hdata : data.length ≤ 255) (t w p : Nat) :
    wholePacket (pktEvents (mkpktBytes dst src cmd data) t w p) := by
  have hlength : (pktEvents (mkpktBytes dst src cmd data) t w p).length = data.length + 5 := by
    rw [← mkpktBytes_length dst src cmd data, ← congrArg List.length (pktEvents_values _ t w p), List.length_map]
  refine ⟨_, rfl, ?_⟩
  rw [hlength]
  exact congrArg (· + 5) (Nat.mod_eq_of_lt (Nat.lt_succ_of_le hdata)).symm

end Sys2Proof.Machine
end

section
/-! The statements on streams and on the stimulus script. -/

namespace Sys2Proof.Machine

/-- Settles O50: a stream begins with a whole packet, after which the framer is EMPTY again, or is held. -/
theorem streamIsCutGreedily : Obligations.StreamIsCutGreedily := by
  intro s evs hmode hempty
  exact feed_eq_withCut le_rfl hmode hempty

/-- Settles O51: where the event comes up the deliveries before it have led to one state, which it leaves. -/
theorem nonDataEventsAreTransparent : Obligations.NonDataEventsAreTransparent := by
  intro s before after ev
  rw [transactAll_append, transactAll_append, transactAll_other]

/-- Settles O56: the bytes are a whole packet, whose last is the valid byte of the others. -/
theorem madePacketsPass : Obligations.MadePacketsPass := by
  intro s dst src cmd data t w p ls hmode hempty h
  obtain ⟨hdata, rfl⟩ := mkpkt_eq_some h
  obtain ⟨l, hl, hlen⟩ := wholePacket_mkpkt (dst := dst) (src := src) (cmd := cmd) hdata t w p
  refine ⟨(pktLines_length _ t w p).trans (mkpktBytes_length dst src cmd data),
    withPacket (pktEvents (mkpktBytes dst src cmd data) t w p) s, ?_, ⟨rfl, rfl⟩, ?_⟩
  · rw [runScript, pktLines_delivery]
    exact feed_packet hmode hempty hl hlen
  · rw [withPacket, eventStatus, values_map_entryOf, pktEvents_values, mkpktBytes, statusOf_validByte]

end Sys2Proof.Machine
end

section
/-! The records of a stream in the order of time under the host's contract, and framers stepped one at a time. -/

namespace Sys2Proof.Machine

/-! ## The host's contract -/

/-- Every event ends no earlier than it starts, and every later event is not before an earlier one (R118). -/
def orderedEvents (evs : List Event) : Prop := (∀ e ∈ evs, e.ss ≤ e.es) ∧ evs.Pairwise notBefore

/-- The contract, which speaks of consecutive events, orders all of them (R118). -/
theorem orderedEvents_of_hostContract {evs : List Event} (h : hostContract evs) : orderedEvents evs := by
  induction evs with
  | nil => exact ⟨nofun, .nil⟩
  | cons e rest ih =>
    obtain ⟨hspan, hnext, hrest⟩ := h
    obtain ⟨hspans, hpairwise⟩ := ih hrest
    refine ⟨List.forall_mem_cons.mpr ⟨hspan, hspans⟩, List.pairwise_cons.mpr ⟨fun f hf => ?_, hpairwise⟩⟩
    cases rest with
    | nil => cases hf
    | cons g rest =>
      obtain rfl | hlater := List.mem_cons.mp hf
      · exact hnext
      · obtain ⟨hss, hes⟩ := (List.pairwise_cons.mp hpairwise).1 f hlater
        exact ⟨hnext.1.trans hss, hnext.2.trans hes⟩

/-- Ordered events that are packets one after another, with more behind them, are ordered within each packet and from
each packet to the later ones. -/
theorem orderedEvents_flatten {packets : List (List Event)} {left : List Event}
    (h : orderedEvents (packets.flatten ++ left)) :
    (∀ packet ∈ packets, orderedEvents packet) ∧
      packets.Pairwise fun p q => ∀ x ∈ p, ∀ y ∈ q, notBefore x y := by
  obtain ⟨hspans, hpairwise⟩ := h
  obtain ⟨hwithin, hacross⟩ := List.pairwise_flatten.mp (List.pairwise_append.mp hpairwise).1
  refine ⟨fun packet hp => ⟨fun e he => hspans e ?_, hwithin packet hp⟩, hacross⟩
  exact List.mem_append_left left (List.mem_flatten_of_mem hp he)

/-! ## The records of one packet -/

/-- A whole packet has four header events and a last one. -/
theorem wholePacket.exists_header_last {packet : List Event} (h : wholePacket packet) :
    ∃ e0 e1 e2 e3 mid last, packet = e0 :: e1 :: e2 :: e3 :: (mid ++ [last]) := by
  obtain ⟨l, -, hlen⟩ := h
  match packet, hlen with
  | e0 :: e1 :: e2 :: e3 :: e4 :: rest, _ =>
    obtain ⟨mid, last, hmid⟩ := (List.eq_nil_or_concat (e4 :: rest)).resolve_left (List.cons_ne_nil e4 rest)
    exact ⟨e0, e1, e2, e3, mid, last, by rw [hmid, List.concat_eq_append]⟩

/-- The records of a packet by its header events and its last event (R80, R81). -/
theorem eventAnnotations_concat (table : CmdTable) (e0 e1 e2 e3 last : Event) (mid : List Event) :
    eventAnnotations table (e0 :: e1 :: e2 :: e3 :: (mid ++ [last])) =
      [headerRecord .destination (entryOf e0), headerRecord .length (entryOf e1), headerRecord .source (entryOf e2),
        headerRecord .commandHeader (entryOf e3),
        summaryRecord e0.ss last.es e3.value (lookupText table e3.value)] := by
  have hanns := packetAnnotations_concat table (entryOf e0) (entryOf e1) (entryOf e2) (entryOf e3) (entryOf last)
    (mid.map entryOf)
  have hbuf : (e0 :: e1 :: e2 :: e3 :: (mid ++ [last])).map entryOf =
      entryOf e0 :: entryOf e1 :: entryOf e2 :: entryOf e3 :: (mid.map entryOf ++ [entryOf last]) := by simp
  rw [eventAnnotations, hbuf, hanns]
  rfl

/-- A packet has five records (R84). -/
theorem wholePacket.annotations_length {packet : List Event} (h : wholePacket packet) (table : CmdTable) :
    (eventAnnotations table packet).length = 5 := by
  obtain ⟨e0, e1, e2, e3, mid, last, rfl⟩ := h.exists_header_last
  rw [eventAnnotations_concat]
  rfl

/-- Each record of a packet starts where one of its events starts and ends where one of them ends: a header record is on
one event, the summary from the first to the last (R80, R81). -/
theorem mem_eventAnnotations {table : CmdTable} {e0 e1 e2 e3 last : Event} {mid : List Event} {a : Annotation}
    (ha : a ∈ eventAnnotations table (e0 :: e1 :: e2 :: e3 :: (mid ++ [last]))) :
    (∃ x ∈ e0 :: e1 :: e2 :: e3 :: (mid ++ [last]), a.ss = x.ss ∧ a.es = x.es) ∨
      (a.ss = e0.ss ∧ a.es = last.es) := by
  rw [eventAnnotations_concat] at ha
  simp only [List.mem_cons, List.not_mem_nil, or_false] at ha
  obtain rfl | rfl | rfl | rfl | rfl := ha
  · exact .inl ⟨e0, by simp, rfl, rfl⟩
  · exact .inl ⟨e1, by simp, rfl, rfl⟩
  · exact .inl ⟨e2, by simp, rfl, rfl⟩
  · exact .inl ⟨e3, by simp, rfl, rfl⟩
  · exact .inr ⟨rfl, rfl⟩

/-- Each record of a packet starts where one of its events does and ends where one of them does (R80, R81). -/
theorem wholePacket.ends_of_records {packet : List Event} (h : wholePacket packet) {table : CmdTable} {a : Annotation}
    (ha : a ∈ eventAnnotations table packet) : (∃ x ∈ packet, a.ss = x.ss) ∧ ∃ y ∈ packet, a.es = y.es := by
  obtain ⟨e0, e1, e2, e3, mid, last, rfl⟩ := h.exists_header_last
  obtain ⟨x, hx, hss, hes⟩ | ⟨hss, hes⟩ := mem_eventAnnotations ha
  · exact ⟨⟨x, hx, hss⟩, x, hx, hes⟩
  · exact ⟨⟨e0, by simp, hss⟩, last, by simp, hes⟩

/-- In a packet of ordered events no event starts before the first or ends after the last. -/
theorem orderedEvents.within {e0 last : Event} {mid : List Event} (h : orderedEvents (e0 :: (mid ++ [last])))
    {x : Event} (hx : x ∈ e0 :: (mid ++ [last])) : e0.ss ≤ x.ss ∧ x.es ≤ last.es := by
  obtain ⟨-, hpairwise⟩ := h
  obtain ⟨hfirst, -⟩ := List.pairwise_cons.mp hpairwise
  rw [← List.cons_append] at hpairwise
  obtain ⟨-, -, hlast⟩ := List.pairwise_append.mp hpairwise
  constructor
  · obtain rfl | hlater := List.mem_cons.mp hx
    · exact le_rfl
    · exact (hfirst x hlater).1
  · obtain hearlier | rfl : x ∈ e0 :: mid ∨ x = last := by simpa [or_assoc] using hx
    · exact (hlast x hearlier last (List.mem_singleton_self last)).2
    · exact le_rfl

/-- Each record of a packet of ordered events ends no earlier than it starts, and lies within the fifth, the summary
(R118). -/
theorem wholePacket.records_within {packet : List Event} (h : wholePacket packet) (hordered : orderedEvents packet)
    {table : CmdTable} {a m : Annotation} (ha : a ∈ eventAnnotations table packet)
    (hm : (eventAnnotations table packet)[4]? = some m) : a.ss ≤ a.es ∧ m.ss ≤ a.ss ∧ a.es ≤ m.es := by
  obtain ⟨e0, e1, e2, e3, mid, last, rfl⟩ := h.exists_header_last
  have within : ∀ {x}, x ∈ e0 :: e1 :: e2 :: e3 :: (mid ++ [last]) → e0.ss ≤ x.ss ∧ x.es ≤ last.es :=
    orderedEvents.within (mid := e1 :: e2 :: e3 :: mid) hordered
  obtain ⟨hmss, hmes⟩ : e0.ss = m.ss ∧ last.es = m.es := by
    rw [eventAnnotations_concat] at hm
    obtain rfl := Option.some.inj hm
    exact ⟨rfl, rfl⟩
  rw [← hmss, ← hmes]
  obtain ⟨x, hx, hss, hes⟩ | ⟨hss, hes⟩ := mem_eventAnnotations ha
  · rw [hss, hes]
    exact ⟨hordered.1 x hx, within hx⟩
  · have hfirst : e0 ∈ e0 :: e1 :: e2 :: e3 :: (mid ++ [last]) := List.mem_cons_self
    rw [hss, hes]
    exact ⟨(hordered.1 e0 hfirst).trans (within hfirst).2, le_rfl, le_rfl⟩

/-- Where no event of a packet is after one of another, no record of it is after one of the other's (R118). -/
theorem wholePacket.records_across {p q : List Event} (hp : wholePacket p) (hq : wholePacket q)
    (hacross : ∀ x ∈ p, ∀ y ∈ q, notBefore x y) {table : CmdTable} {a b : Annotation}
    (ha : a ∈ eventAnnotations table p) (hb : b ∈ eventAnnotations table q) : a.ss ≤ b.ss ∧ a.es ≤ b.es := by
  obtain ⟨⟨x, hx, hass⟩, x', hx', haes⟩ := hp.ends_of_records ha
  obtain ⟨⟨y, hy, hbss⟩, y', hy', hbes⟩ := hq.ends_of_records hb
  rw [hass, hbss, haes, hbes]
  exact ⟨(hacross x hx y hy).1, (hacross x' hx' y' hy').2⟩

/-! ## Records by packet and place in it -/

/-- In a concatenation of blocks of five, place `i` is place `i % 5` of block `i / 5`. -/
theorem getElem?_flatMap_of_five {α β : Type} {f : α → List β} {blocks : List α}
    (hfive : ∀ x ∈ blocks, (f x).length = 5) {i : Nat} {b : β} (h : (blocks.flatMap f)[i]? = some b) :
    ∃ x, blocks[i / 5]? = some x ∧ (f x)[i % 5]? = some b := by
  induction blocks generalizing i with
  | nil => cases h
  | cons x blocks ih =>
    obtain ⟨hx, hblocks⟩ := List.forall_mem_cons.mp hfive
    rw [List.flatMap_cons] at h
    obtain hlt | hge : i < 5 ∨ 5 ≤ i := by omega
    · rw [List.getElem?_append_left (by omega)] at h
      rw [Nat.div_eq_of_lt hlt, Nat.mod_eq_of_lt hlt]
      exact ⟨x, rfl, h⟩
    · rw [List.getElem?_append_right (by omega), hx] at h
      obtain ⟨y, hy, hb⟩ := ih hblocks h
      have hdiv : i / 5 = (i - 5) / 5 + 1 := by omega
      have hmod : i % 5 = (i - 5) % 5 := by omega
      exact ⟨y, by rw [hdiv, List.getElem?_cons_succ, hy], by rw [hmod, hb]⟩

/-! ## A system of framers -/

/-- A step of the framer at `k` is the step it makes alone over the shared table, and only that framer is replaced
(R110). -/
theorem stepAt_eq_some_iff {k : Nat} {sys after : System} :
    stepAt k sys = some after ↔ ∃ s t, sys.framers[k]? = some s ∧ step (withTable sys.table s) = .next t ∧
      after = { sys with framers := sys.framers.set k t } := by
  unfold stepAt
  cases hk : sys.framers[k]? with
  | none => simp
  | some s =>
    cases hs : step (withTable sys.table s) with
    | next t =>
      have htable : t.cmdTable = sys.table := (step_static hs).1
      simp [htable, hs, eq_comm]
    | fault r | refused r => simp [hs]

/-- Two steps of different framers can be made in the other order, with the same end (R110). -/
theorem stepAt_swap {k j : Nat} (hne : j ≠ k) {sys mid after : System} (hk : stepAt k sys = some mid)
    (hj : stepAt j mid = some after) : ∃ mid', stepAt j sys = some mid' ∧ stepAt k mid' = some after := by
  obtain ⟨s, t, hs, hst, rfl⟩ := stepAt_eq_some_iff.mp hk
  obtain ⟨s', t', hs', hst', rfl⟩ := stepAt_eq_some_iff.mp hj
  rw [List.getElem?_set_ne hne.symm] at hs'
  refine ⟨_, stepAt_eq_some_iff.mpr ⟨s', t', hs', hst', rfl⟩, stepAt_eq_some_iff.mpr ⟨s, t, ?_, hst, ?_⟩⟩
  · rw [List.getElem?_set_ne hne, hs]
  · rw [List.set_comm _ _ hne.symm]

end Sys2Proof.Machine
end

section
/-! The statements on the records' order in time and on several framers. -/

namespace Sys2Proof.Machine

/-- Settles O52: the records are those of the packets of the cut, five each, whose events the contract orders within a
packet and from packet to packet. -/
theorem contractOrdersTheRecords : Obligations.ContractOrdersTheRecords := by
  intro s t evs hmode hempty hnone hcontract hfeed
  obtain rfl := Host.Outcome.next.inj (hfeed.symm.trans (feed_eq_withCut le_rfl hmode hempty))
  obtain ⟨hflatten, hwhole⟩ := cutFrom_spec evs.length evs
  obtain ⟨hordered, hacross⟩ := orderedEvents_flatten (hflatten ▸ orderedEvents_of_hostContract hcontract)
  rw [withCut, hnone, List.nil_append]
  generalize (cutFrom evs.length evs).1 = packets at *
  have place : ∀ {i a}, (packets.flatMap (eventAnnotations s.cmdTable))[i]? = some a →
      ∃ packet, packets[i / 5]? = some packet ∧ (eventAnnotations s.cmdTable packet)[i % 5]? = some a :=
    getElem?_flatMap_of_five fun packet hp => (hwhole packet hp).annotations_length s.cmdTable
  refine ⟨fun a ha => ?_, fun i j a b hi hj hlt => ?_, fun i a m hi hm => ?_⟩
  · obtain ⟨packet, hp, ha⟩ := List.mem_flatMap.mp ha
    have hfifth : (eventAnnotations s.cmdTable packet)[4]? = some _ :=
      List.getElem?_eq_getElem (by rw [(hwhole packet hp).annotations_length]; decide)
    exact ((hwhole packet hp).records_within (hordered packet hp) ha hfifth).1
  · obtain ⟨p, hp, ha⟩ := place hi
    obtain ⟨q, hq, hb⟩ := place hj
    have hlater : ∀ x ∈ p, ∀ y ∈ q, notBefore x y := by
      obtain ⟨hi', rfl⟩ := List.getElem?_eq_some_iff.mp hp
      obtain ⟨hj', rfl⟩ := List.getElem?_eq_some_iff.mp hq
      exact List.pairwise_iff_getElem.mp hacross _ _ hi' hj' hlt
    exact (hwhole p (List.mem_of_getElem? hp)).records_across (hwhole q (List.mem_of_getElem? hq)) hlater
      (List.mem_of_getElem? ha) (List.mem_of_getElem? hb)
  · obtain ⟨p, hp, ha⟩ := place hi
    obtain ⟨q, hq, hfifth⟩ := place hm
    rw [show (i / 5 * 5 + 4) / 5 = i / 5 by omega, hp] at hq
    obtain rfl := Option.some.inj hq
    rw [show (i / 5 * 5 + 4) % 5 = 4 by omega] at hfifth
    have hmem := List.mem_of_getElem? hp
    exact ((hwhole p hmem).records_within (hordered p hmem) (List.mem_of_getElem? ha) hfifth).2

/-- Settles O54: a step replaces one framer by what it makes alone over the table, which it does not write. -/
theorem framersShareNothing : Obligations.FramersShareNothing := by
  refine ⟨fun k sys after h => ?_, fun k j sys hne => ?_, fun k sys s hk hs => ?_⟩
  · obtain ⟨s, t, hs, hst, rfl⟩ := stepAt_eq_some_iff.mp h
    have hlt := (List.getElem?_eq_some_iff.mp hs).1
    exact ⟨rfl, fun j hj => List.getElem?_set_ne hj.symm, s, t, hs, hst, List.getElem?_set_self hlt,
      (step_static hst).1⟩
  · ext after
    simp only [Option.bind_eq_some_iff]
    exact ⟨fun ⟨_, hk, hj⟩ => stepAt_swap hne hk hj, fun ⟨_, hj, hk⟩ => stepAt_swap hne.symm hj hk⟩
  · obtain ⟨t, ht⟩ := stepNeverStops _ hs
    exact ⟨_, stepAt_eq_some_iff.mpr ⟨s, t, hk, ht, rfl⟩⟩

end Sys2Proof.Machine
end
